-- ==== Sys2Proof/Word.lean ====
section
/-!
DEFINITION. The widths the block's values have: a byte (00_scope.md R5), a 32-bit register (10_state.md R22) and a
block-space offset (20_memory.md R60). Every value is unsigned (00_scope.md R7).
-/

namespace Sys2Proof

/-- One byte, 0 to 255. -/
abbrev Byte := BitVec 8

/-- One 32-bit register value, or the data of one host access. -/
abbrev Word := BitVec 32

/-- One byte offset in the 4 MiB block space. -/
abbrev Offset := BitVec 22

end Sys2Proof
end

