-- ==== Sys2Proof/Machine/Hidden.lean ====
section
/-!
DEFINITION. The block's hidden state (10_state.md R39 to R43), which no host access reads or writes. Its tables are held as
lists of what is present: an absent symbol has count 0 and the empty code (R40, R42), and the node count NN is the length of
the node list (R41).
-/

namespace Sys2Proof.Machine

/-- One node of the tree arena (10_state.md R41). A child is an arena index, or none (90_conflicts.md C6). -/
inductive Node where
  | leaf (sym : Byte) (freq : BitVec 40)
  | internal (freq : BitVec 40) (left right : Option (BitVec 9))
deriving DecidableEq, Repr, Inhabited

/-- FREQ (10_state.md R40): the present byte values, ascending, each with its count. -/
abbrev FreqTable := List (Byte × Word)

/-- CODE (10_state.md R42): the present byte values, each with its code; `false` is the bit 0. -/
abbrev CodeTable := List (Byte × List Bool)

/-- The hidden state. -/
structure Hidden where
  /-- CMD_L, the latched command word (R39). -/
  cmdL : Word
  /-- LEN_L, the latched input length (R39). -/
  lenL : Word
  /-- FREQ (R40). -/
  freq : FreqTable
  /-- NODE[0 .. NN) (R41). -/
  node : List Node
  /-- ROOT (R41). -/
  root : BitVec 9
  /-- CODE (R42). -/
  code : CodeTable
  /-- The engine's SRC position (R43). -/
  i : BitVec 21
  /-- The engine's DST position (R43). -/
  o : BitVec 21
  /-- The bit position within the packed bits (R43). -/
  bp : BitVec 24
  /-- The current tree node (R43). -/
  cur : BitVec 9
  /-- best_len of the LZ77 search (R43). -/
  bestLen : BitVec 8
  /-- best_off of the LZ77 search (R43). -/
  bestOff : BitVec 8
  /-- The window scan index (R43 gives no width; log 16). -/
  j : BitVec 21
  /-- The trial length (R43 gives no width; log 16). -/
  l : BitVec 8
deriving DecidableEq, Repr, Inhabited

end Sys2Proof.Machine
end

