-- ==== Sys2Proof/Config.lean ====
section
/-!
DEFINITION. What an implementation fixes (00_scope.md R5) and the free values: what the spec leaves unspecified is an opaque
constant, so that nothing can be proved of its value.
-/

namespace Sys2Proof

/-- The parameters of one block (00_scope.md R5; 93_implementation_defined.md section 4). -/
structure Params where
  /-- Bytes of the SRC buffer. -/
  srcCap : Nat
  /-- Bytes of the DST buffer. -/
  dstCap : Nat
  /-- The system address of block offset 0. -/
  base : Nat
  /-- The platform's interrupt line that irq drives. -/
  irqLine : Nat
deriving DecidableEq, Repr

/-- A legal capacity: a power of two from 1 to 2^20 (00_scope.md R5). -/
abbrev Params.legalCap (n : Nat) : Prop := ∃ k ∈ List.range 21, n = 2 ^ k

/-- Legal parameters (00_scope.md R5; 93_implementation_defined.md section 4: BASE is 4 MiB aligned). -/
abbrev Params.legal (p : Params) : Prop :=
  Params.legalCap p.srcCap ∧ Params.legalCap p.dstCap ∧ p.base % 0x400000 = 0

/-- The default capacities (00_scope.md R5). BASE and IRQ_LINE are OPEN; 0 here is a DESIGN CHOICE (log 3), unsafe for a
claim about a particular system address. -/
def Config.defaultParams : Params :=
  { srcCap := 65536, dstCap := 262144, base := 0, irqLine := 0 }

/-- Free value (log 4, 5, 6): the byte number `k` of draw number `n`. Draw 0 is SRC at power-on (20_memory.md R78). -/
opaque Config.freeByte : Nat → Nat → Byte

/-- Free value (log 8): the hidden state that reset number `n` of the draws leaves (70_reset_and_hazards.md R242). -/
opaque Config.freeHidden : Nat → Machine.Hidden

end Sys2Proof
end

