-- ==== Sys2Proof/Syntax.lean ====
section
/-!
DEFINITION. What the host and the engine can be asked to do: a bus access (30_encoding.md R99) and the eleven rows of the
opcode table as the constructors of Instr.
-/

namespace Sys2Proof

/-- The width of one host access (20_memory.md R63, R64). -/
inductive Width where
  | w8
  | w16
  | w32
deriving DecidableEq, Repr

/-- A host access reads, or writes the given data; an 8-bit or 16-bit write uses the data's low bytes. -/
inductive AccessKind where
  | read
  | write (v : Word)
deriving DecidableEq, Repr

/-- One bus access, the tuple (kind, offset, width, data) of 30_encoding.md R99. -/
structure Access where
  kind : AccessKind
  off : Offset
  width : Width
deriving DecidableEq, Repr

/-- The register a WR_CMD_SRC_LEN access names (42_control.md R197). -/
inductive CmdReg where
  | cmd
  | srcLen
deriving DecidableEq, Repr

/-- The rows of the opcode table. The first four are commands, performed by the engine; the others are host accesses. -/
inductive Instr where
  /-- Huffman compress, 40_huffman.md R132. -/
  | hufc
  /-- Huffman decompress, 40_huffman.md R136. -/
  | hufd
  /-- LZ77 compress with window size `w`, 41_lz77.md R166. -/
  | lzc (w : Byte)
  /-- LZ77 decompress, 41_lz77.md R169. -/
  | lzd
  /-- Write of `v` to CTRL with START set and SRESET clear, 42_control.md R190. -/
  | start (v : Word)
  /-- Write of `v` to CTRL with SRESET set, 42_control.md R194. -/
  | sreset (v : Word)
  /-- Write of `v` to INT_STAT with bit 0 set, 42_control.md R195. -/
  | intack (v : Word)
  /-- Write of `v` to INT_EN, 42_control.md R196. -/
  | wrIntEn (v : Word)
  /-- Write of `v` to CMD or SRC_LEN, 42_control.md R197. -/
  | wrCmdSrcLen (r : CmdReg) (v : Word)
  /-- Read of the register word at `off`, 42_control.md R198. -/
  | rdReg (off : Offset)
  /-- Read or write in the SRC or DST window, 42_control.md R199. -/
  | winAccess (k : AccessKind) (w : Width) (off : Offset)
deriving DecidableEq, Repr

/-- What an instruction is written as: a command word (30_encoding.md R90) or a bus access (30_encoding.md R99). -/
inductive Encoding where
  | command (c : Word)
  | access (a : Access)
deriving DecidableEq, Repr

end Sys2Proof
end

