-- ==== Sys2Proof/Machine/AddressMap.lean ====
section
/-!
DEFINITION. The block-space map (20_memory.md R61), the alignment rules (R63, R64) and the place of the block in the host's
address space (00_scope.md R5).
-/

namespace Sys2Proof.Machine

/-- The bytes one access moves. -/
def widthBytes : Width → Nat
  | .w8 => 1
  | .w16 => 2
  | .w32 => 4

/-- Where an access falls; a window's index counts from the buffer's byte 0. -/
inductive Region where
  | registers
  | src (a : Nat)
  | dst (a : Nat)
  | unmapped
deriving DecidableEq, Repr

/-- The region that holds all `n` bytes from `off` on: one byte in an unmapped offset makes the whole access unmapped
(20_memory.md R61, R62). -/
def regionOf (p : Params) (off n : Nat) : Region :=
  if off + n ≤ 0x1000 then .registers
  else if 0x100000 ≤ off ∧ off + n ≤ 0x100000 + p.srcCap then .src (off - 0x100000)
  else if 0x200000 ≤ off ∧ off + n ≤ 0x200000 + p.dstCap then .dst (off - 0x200000)
  else .unmapped

/-- Natural alignment (20_memory.md R63, R64). -/
def aligned (off : Offset) (w : Width) : Bool :=
  off.toNat % widthBytes w == 0

/-- The register page takes 32-bit aligned accesses only (20_memory.md R63). -/
def registerAccessOk (p : Params) (off : Offset) (w : Width) : Bool :=
  regionOf p off.toNat (widthBytes w) == .registers && w == .w32 && aligned off .w32

/-- The buffer bytes a legal window access reaches: aligned and wholly inside one window (20_memory.md R61, R62, R64). -/
inductive WindowTarget where
  | src (a : Nat)
  | dst (a : Nat)
deriving DecidableEq, Repr

/-- The target of a window access, or none where it gets an error response. -/
def windowTarget (p : Params) (off : Offset) (w : Width) : Option WindowTarget :=
  if aligned off w then
    match regionOf p off.toNat (widthBytes w) with
    | .src a => some (.src a)
    | .dst a => some (.dst a)
    | .registers => none
    | .unmapped => none
  else none

/-- The block offset of a system address: the 4 MiB window at BASE (00_scope.md R5, 20_memory.md R60). -/
def offsetOfAddress (p : Params) (addr : Nat) : Option Offset :=
  if p.base ≤ addr ∧ addr < p.base + 0x400000 then some (BitVec.ofNat 22 (addr - p.base)) else none

end Sys2Proof.Machine
end

