-- ==== Sys2Proof/WellFormed.lean ====
section
/-!
DEFINITION. Which terms of Instr stand for an access or command the opcode table's row matches: the row's fixed bits, and the
offsets of the row (20_memory.md R61 to R64).
-/

namespace Sys2Proof

/-- The row's match and mask, and its offset and width checks. -/
def Instr.wellFormed (p : Params) : Instr → Bool
  | .hufc => true
  | .hufd => true
  | .lzc _ => true
  | .lzd => true
  | .start v => v &&& 3#32 == 1#32
  | .sreset v => v &&& 2#32 == 2#32
  | .intack v => v &&& 1#32 == 1#32
  | .wrIntEn _ => true
  | .wrCmdSrcLen _ _ => true
  | .rdReg off => Machine.registerAccessOk p off .w32
  | .winAccess _ w off => (Machine.windowTarget p off w).isSome

end Sys2Proof
end

