-- ==== Sys2Proof/Decode.lean ====
section
/-!
DEFINITION. Decoding a command word (30_encoding.md R95) and a bus access (20_memory.md R61 to R64, 42_control.md), and the
encoder, written from the same tables. What is no row of the opcode table is rejected by name; the machine then gives it the
response the spec gives it (Machine/Control.lean).
-/

namespace Sys2Proof

/-- Why an encoding is no row of the opcode table. -/
inductive Reject where
  /-- The command word selects no command (30_encoding.md R96). -/
  | invalidCommand
  /-- Some byte of the access is at an unmapped offset (20_memory.md R62). -/
  | unmapped
  /-- The access to the register page is not 32 bits wide and aligned (20_memory.md R63). -/
  | registerAccess
  /-- The window access is misaligned (20_memory.md R64). -/
  | misaligned
  /-- A write to CTRL with START and SRESET clear (42_control.md R190). -/
  | ctrlNothing
  /-- A write to INT_STAT with bit 0 clear (42_control.md R195). -/
  | intStatNothing
  /-- A write to a read-only register (42_control.md R198). -/
  | readOnly
  /-- A write to a reserved word (10_state.md R35). -/
  | reservedWord
deriving DecidableEq, Repr

/-- 30_encoding.md R95: the four command words under the mask 0xFFFF00FF, total on all words. -/
def decodeCommand (c : Word) : Except Reject Instr :=
  if c &&& 0xFFFF00FF#32 = 0x00000010#32 then .ok .hufc
  else if c &&& 0xFFFF00FF#32 = 0x00000011#32 then .ok .hufd
  else if c &&& 0xFFFF00FF#32 = 0x00000020#32 then .ok (.lzc (c.extractLsb' 8 8))
  else if c &&& 0xFFFF00FF#32 = 0x00000021#32 then .ok .lzd
  else .error .invalidCommand

/-- A 32-bit aligned write of `v` to the register page: the registers of 10_state.md R22. SRESET goes before START
(60_exceptions.md R219). -/
def decodeRegWrite (off : Offset) (v : Word) : Except Reject Instr :=
  if off = 0x010#22 then
    if v.getLsbD 1 then .ok (.sreset v) else if v.getLsbD 0 then .ok (.start v) else .error .ctrlNothing
  else if off = 0x014#22 then .ok (.wrCmdSrcLen .cmd v)
  else if off = 0x018#22 then .ok (.wrCmdSrcLen .srcLen v)
  else if off = 0x028#22 then .ok (.wrIntEn v)
  else if off = 0x02C#22 then if v.getLsbD 0 then .ok (.intack v) else .error .intStatNothing
  else if off.toNat < 0x030 then .error .readOnly
  else .error .reservedWord

/-- Decode a bus access (20_memory.md R61 to R64). -/
def decodeAccess (p : Params) (a : Access) : Except Reject Instr :=
  match Machine.regionOf p a.off.toNat (Machine.widthBytes a.width) with
  | .registers =>
    if Machine.registerAccessOk p a.off a.width then
      match a.kind with
      | .read => .ok (.rdReg a.off)
      | .write v => decodeRegWrite a.off v
    else .error .registerAccess
  | .src _ => if Machine.aligned a.off a.width then .ok (.winAccess a.kind a.width a.off) else .error .misaligned
  | .dst _ => if Machine.aligned a.off a.width then .ok (.winAccess a.kind a.width a.off) else .error .misaligned
  | .unmapped => .error .unmapped

/-- Decode whatever the block is given. -/
def decode (p : Params) : Encoding → Except Reject Instr
  | .command c => decodeCommand c
  | .access a => decodeAccess p a

/-- The offset of the register a WR_CMD_SRC_LEN access names (10_state.md R22). -/
def cmdRegOffset : CmdReg → Offset
  | .cmd => 0x014#22
  | .srcLen => 0x018#22

/-- A 32-bit host write (syntax `wr32 off, v`, 30_encoding.md R99). -/
def write32 (off : Offset) (v : Word) : Encoding :=
  .access { kind := .write v, off := off, width := .w32 }

/-- The words of an instruction: 30_encoding.md R95 and R97 for the commands, 42_control.md for the host accesses. An ignored
command field is encoded as 0. -/
def encode : Instr → Encoding
  | .hufc => .command 0x00000010#32
  | .hufd => .command 0x00000011#32
  | .lzc w => .command (0x00000020#32 ||| (w.setWidth 32 <<< 8))
  | .lzd => .command 0x00000021#32
  | .start v => write32 0x010#22 v
  | .sreset v => write32 0x010#22 v
  | .intack v => write32 0x02C#22 v
  | .wrIntEn v => write32 0x028#22 v
  | .wrCmdSrcLen r v => write32 (cmdRegOffset r) v
  | .rdReg off => .access { kind := .read, off := off, width := .w32 }
  | .winAccess k w off => .access { kind := k, off := off, width := w }

/-- The register that a bare word of the opcode table is written to where it is no command word (log 12): CTRL where a bit of
START or SRESET is set, else INT_EN. -/
def tableWordOffset (w : Word) : Offset :=
  if w.getLsbD 1 || w.getLsbD 0 then 0x010#22 else 0x028#22

/-- The access that a bare word of the opcode table stands for where it is no command word (the rows START, SRESET and
WR_INT_EN; log 12). -/
def tableWordAccess (w : Word) : Access :=
  { kind := .write w, off := tableWordOffset w, width := .w32 }

/-- How a bare word of the opcode table is read (log 12): as the first row of the table that it matches. -/
def tableWordEncoding (w : Word) : Encoding :=
  match decodeCommand w with
  | .ok _ => .command w
  | .error _ => .access (tableWordAccess w)

/-- The bits of a table word of `nbits` bits, every bit above them 0. -/
def tableWordBits (nbits w : Nat) : Word :=
  BitVec.ofNat 32 (w % 2 ^ nbits)

/-- The instruction the decoder reads from a bare word of the opcode table; every row is one 32-bit word. -/
def decodeTableWord (nbits w : Nat) : Option Instr :=
  if nbits ≤ 32 then (decode Config.defaultParams (tableWordEncoding (tableWordBits nbits w))).toOption else none

end Sys2Proof
end

