-- ==== Sys2Proof/Machine/Bytes.lean ====
section
/-!
DEFINITION. Byte and bit order: the little-endian host side (20_memory.md R65), the big-endian blob fields (00_scope.md R11,
20_memory.md R66) and the most-significant-bit-first packed bits (30_encoding.md R104).
-/

namespace Sys2Proof.Machine

/-- The value of a byte string, its first byte least significant (20_memory.md R65). -/
def leValue : List Byte → Word
  | [] => 0
  | b :: bs => b.setWidth 32 ||| (leValue bs <<< 8)

/-- The first `n` bytes of a value, least significant first (20_memory.md R65). -/
def leBytes : Nat → Word → List Byte
  | 0, _ => []
  | n + 1, v => v.setWidth 8 :: leBytes n (v >>> 8)

/-- BE32 (00_scope.md R11). -/
def be32 (b0 b1 b2 b3 : Byte) : Word :=
  b0 ++ b1 ++ b2 ++ b3

/-- bytesBE32 (00_scope.md R11). -/
def bytesBE32 (v : Word) : List Byte :=
  [v.extractLsb' 24 8, v.extractLsb' 16 8, v.extractLsb' 8 8, v.extractLsb' 0 8]

/-- The byte at an index of a byte string; every index a command reads is in range (20_memory.md R67). -/
def byteAt (x : List Byte) (a : Nat) : Byte :=
  x.getD a 0

/-- The big-endian field at an index of a byte string. -/
def be32At (x : List Byte) (a : Nat) : Word :=
  be32 (byteAt x a) (byteAt x (a + 1)) (byteAt x (a + 2)) (byteAt x (a + 3))

/-- The eight bits of a byte, most significant first (30_encoding.md R104). -/
def byteBits (b : Byte) : List Bool :=
  (List.range 8).map fun r => b.getLsbD (7 - r)

/-- The byte whose bits from the most significant down are bits 8q to 8q + 7 of a bit string, 0 past its end
(40_huffman.md R130). -/
def packedByte (bits : List Bool) (q : Nat) : Byte :=
  (List.range 8).foldl (fun acc r => acc ||| ((BitVec.ofBool (bits.getD (8 * q + r) false)).setWidth 8 <<< (7 - r))) 0

/-- ceil(B / 8), the bytes a bit string is packed into (40_huffman.md R130). -/
def packedLength (nbits : Nat) : Nat :=
  (nbits + 7) / 8

/-- A bit string packed into bytes and padded with zero bits (40_huffman.md R130). -/
def packBits (bits : List Bool) : List Byte :=
  (List.range (packedLength bits.length)).map (packedByte bits)

/-- The padding count of a packed bit string, 0 to 7 (40_huffman.md R130). -/
def paddingCount (nbits : Nat) : Nat :=
  8 * packedLength nbits - nbits

/-- The bit string of a byte string (30_encoding.md R104). -/
def unpackBits (x : List Byte) : List Bool :=
  x.flatMap byteBits

end Sys2Proof.Machine
end

