-- ==== Sys2Proof/Machine/Completion.lean ====
section
/-!
DEFINITION. How a command ends (00_scope.md R12): a success with its output, or an error kind, cause and position.
-/

namespace Sys2Proof.Machine

/-- The error kinds (60_exceptions.md R210). -/
inductive ErrKind where
  | unsupportedAlgorithm
  | malformedInput
  | compressionFailed
  | decompressionFailed
deriving DecidableEq, Repr

/-- The error causes (60_exceptions.md R211). -/
inductive Cause where
  | badCmd
  | srcLenRange
  | outOverflow
  | hufHdrShort
  | hufTableOverrun
  | hufPadMissing
  | hufTableFormat
  | hufTableOrder
  | hufTableZero
  | hufPadRange
  | hufEmptyTableBits
  | hufBadCode
  | hufTruncated
  | lzLenMod3
  | lzOffsetRange
  | lzZeroOffset
deriving DecidableEq, Repr

/-- The end of a command: `complete(n)` with the output `DST[0 .. n)` holds, or `raise kind(cause, pos)` (00_scope.md R12). -/
inductive Completion where
  | success (out : List Byte)
  | error (kind : ErrKind) (cause : Cause) (pos : Nat)
deriving DecidableEq, Repr

/-- What an error completion leaves in DST (60_exceptions.md R213): its bytes as they were, or unspecified values. -/
inductive DstEffect where
  | kept
  | lost
deriving DecidableEq, Repr

end Sys2Proof.Machine
end

