-- ==== Sys2Proof/Machine/State.lean ====
section
/-!
DEFINITION. The block's state: every register of 10_state.md R22 that has storage, the SRC and DST memories (R37, R38), the
hidden state (R39 to R43), the reset input (R45), the parameters (00_scope.md R5), and the model's own fields: the schedule of
what the outside does next, the response to the last host access and the counters of the free values.
-/

namespace Sys2Proof.Machine

/-- A buffer's written bytes, by index, indices strictly rising. An index that is not listed has not been written since its
last draw: it reads a free value (20_memory.md R78; log 4, 10). -/
abbrev Memory := List Host.Cell

/-- The canonical form of a buffer: indices strictly rising. -/
abbrev Memory.wf (m : Memory) : Prop := (m.map Prod.fst).Pairwise (· < ·)

/-- The block's answer to a host access. -/
inductive Response where
  /-- No host access has been made yet. -/
  | none
  /-- A write's normal response. -/
  | ok
  /-- A read's normal response with its data, zero-extended. -/
  | data (v : Word)
  /-- The bus's refusal of an access (20_memory.md R62 to R64, 10_state.md R45). -/
  | error
deriving DecidableEq, Repr

/-- What happens next at the block: the two agents of 00_scope.md R17 and the reset input (10_state.md R45), in the order the
outside world chooses (60_exceptions.md R219; log 1). -/
inductive Event where
  /-- The host makes an access. -/
  | host (a : Access)
  /-- The engine may take its completion step. -/
  | engine
  /-- The reset input is driven to a level. -/
  | rst (level : Bool)
deriving DecidableEq, Repr

/-- The state of one block. -/
structure State where
  /-- The parameters, fixed for the block; the SRC_CAP and DST_CAP registers show two of them (10_state.md R25, R26). -/
  params : Params
  /-- CMD (R28). -/
  cmd : Word
  /-- SRC_LEN (R29). -/
  srcLen : Word
  /-- DST_LEN (R30). -/
  dstLen : Word
  /-- STATUS (R31). -/
  status : Word
  /-- ERR_POS (R32). -/
  errPos : Word
  /-- INT_EN.DONE_IE (R33). -/
  doneIe : Bool
  /-- INT_STAT.DONE_IP (R34). -/
  doneIp : Bool
  /-- SRC (R37). -/
  src : Memory
  /-- DST (R38). -/
  dst : Memory
  /-- The hidden state (R39 to R43). -/
  hidden : Hidden
  /-- The level of the reset input (R45). -/
  rst : Bool
  /-- The model's schedule: what happens next, first event first. -/
  events : List Event
  /-- The response to the last host access. -/
  resp : Response
  /-- The draw that an unlisted DST byte reads. -/
  dstDraw : Nat
  /-- The number of the next draw. -/
  draws : Nat
deriving DecidableEq, Repr

/-- Why a step stops with a fault. There is none: every command word and every host access has a defined outcome
(00_scope.md R14), so no step of this block faults. -/
inductive Fault where
deriving DecidableEq, Repr

/-- Why a step is refused. -/
inductive Refusal where
  /-- Raised by exec's arm of an instruction that has no meaning yet; safe, the machine stops. No arm is left. -/
  | notModelled (mnemonic : String)
deriving DecidableEq, Repr

/-- The hidden state of State.reset. The spec gives none (70_reset_and_hazards.md R242): DESIGN CHOICE zero and empty
(log 7), unsafe for a claim about hidden state before the first command. -/
def Hidden.reset : Hidden :=
  { cmdL := 0, lenL := 0, freq := [], node := [], root := 0, code := [], i := 0, o := 0, bp := 0, cur := 0,
    bestLen := 0, bestOff := 0, j := 0, l := 0 }

/-- The block right after power-on and reset (70_reset_and_hazards.md R240 to R243), the default parameters, the reset input
deasserted, nothing scheduled; SRC unlisted bytes read draw 0 and DST unlisted bytes draw 1 (log 9). -/
def State.reset : State :=
  { params := Config.defaultParams, cmd := 0, srcLen := 0, dstLen := 0, status := 0, errPos := 0, doneIe := false,
    doneIp := false, src := [], dst := [], hidden := Hidden.reset, rst := false, events := [], resp := .none,
    dstDraw := 1, draws := 2 }

end Sys2Proof.Machine
end

