-- ==== Sys2Proof/Machine/Flags.lean ====
section
/-!
DEFINITION. The flags (10_state.md R36): the STATUS word's fields and values (R31), the numeric kinds and causes
(60_exceptions.md R210, R211) and the interrupt output (10_state.md R44).
-/

namespace Sys2Proof.Machine

/-- STATUS.BUSY (10_state.md R31). -/
def State.busy (s : State) : Bool := s.status.getLsbD 0

/-- STATUS.DONE (10_state.md R31). -/
def State.done (s : State) : Bool := s.status.getLsbD 1

/-- STATUS.ERR (10_state.md R31). -/
def State.err (s : State) : Bool := s.status.getLsbD 2

/-- STATUS.KIND (10_state.md R31). -/
def State.kindField (s : State) : BitVec 4 := s.status.extractLsb' 4 4

/-- STATUS.CAUSE (10_state.md R31). -/
def State.causeField (s : State) : BitVec 8 := s.status.extractLsb' 8 8

/-- The code of an error kind (60_exceptions.md R210). -/
def kindCode : ErrKind → Word
  | .unsupportedAlgorithm => 1
  | .malformedInput => 2
  | .compressionFailed => 3
  | .decompressionFailed => 4

/-- The code of an error cause (60_exceptions.md R211). -/
def causeCode : Cause → Word
  | .badCmd => 0x01
  | .srcLenRange => 0x02
  | .outOverflow => 0x03
  | .hufHdrShort => 0x10
  | .hufTableOverrun => 0x11
  | .hufPadMissing => 0x12
  | .hufTableFormat => 0x13
  | .hufTableOrder => 0x14
  | .hufTableZero => 0x15
  | .hufPadRange => 0x16
  | .hufEmptyTableBits => 0x17
  | .hufBadCode => 0x18
  | .hufTruncated => 0x19
  | .lzLenMod3 => 0x20
  | .lzOffsetRange => 0x21
  | .lzZeroOffset => 0x22

/-- STATUS while a command runs (42_control.md R192). -/
def statusBusy : Word := 0x00000001

/-- STATUS after a success completion (42_control.md R193). -/
def statusSuccess : Word := 0x00000002

/-- STATUS after an error completion (60_exceptions.md R213). -/
def statusError (k : ErrKind) (c : Cause) : Word :=
  0x00000006 ||| (kindCode k <<< 4) ||| (causeCode c <<< 8)

/-- INT_EN as a word: DONE_IE in bit 0, the reserved bits 0 (10_state.md R33). -/
def State.intEnWord (s : State) : Word := (BitVec.ofBool s.doneIe).setWidth 32

/-- INT_STAT as a word: DONE_IP in bit 0, the reserved bits 0 (10_state.md R34). -/
def State.intStatWord (s : State) : Word := (BitVec.ofBool s.doneIp).setWidth 32

/-- The interrupt output (10_state.md R44). -/
def State.irq (s : State) : Bool := s.doneIp && s.doneIe

/-- The level the block drives on a line of the platform (60_exceptions.md R217): irq on the line IRQ_LINE, no other. -/
def State.irqOnLine (s : State) (line : Nat) : Bool := s.irq && line == s.params.irqLine

end Sys2Proof.Machine
end

