-- ==== Sys2Proof/Machine/Ops.lean ====
section
/-!
DEFINITION. The named operations over the memories and the registers: a buffer's byte read and write, the response to an
access, START acceptance (42_control.md R192), the success completion (R193), the error completion (60_exceptions.md R213, the
block's one way of reporting an error, R214), the return from it by INTACK (R220, 42_control.md R195), and reset
(70_reset_and_hazards.md R240 to R242).
-/

namespace Sys2Proof.Machine

/-- The listed byte at an index. -/
def Memory.get : Memory → Nat → Option Byte
  | [], _ => none
  | (b, v) :: m, a => if b = a then some v else Memory.get m a

/-- Write one byte, keeping the indices rising. -/
def Memory.put : Memory → Nat → Byte → Memory
  | [], a, v => [(a, v)]
  | (b, w) :: m, a, v =>
    if a < b then (a, v) :: (b, w) :: m
    else if a = b then (a, v) :: m
    else (b, w) :: Memory.put m a v

/-- Write a byte string at an index and the ones after it. -/
def Memory.putBytes : Memory → Nat → List Byte → Memory
  | m, _, [] => m
  | m, a, v :: vs => Memory.putBytes (Memory.put m a v) (a + 1) vs

/-- The byte of draw `n` where no byte is listed (20_memory.md R78). -/
def Memory.readOr (m : Memory) (n a : Nat) : Byte :=
  (m.get a).getD (Config.freeByte n a)

/-- SRC[a] (00_scope.md R11). An unwritten byte holds its power-on value (20_memory.md R78). -/
def State.srcByte (s : State) (a : Nat) : Byte := s.src.readOr 0 a

/-- DST[a] (00_scope.md R11). An unwritten byte holds the value of the last draw of DST (20_memory.md R78,
60_exceptions.md R213, 70_reset_and_hazards.md R241). -/
def State.dstByte (s : State) (a : Nat) : Byte := s.dst.readOr s.dstDraw a

/-- Answer a host access. -/
def State.respond (s : State) (r : Response) : State := { s with resp := r }

/-- Write bytes of SRC (host only, 10_state.md R37). -/
def State.writeSrc (s : State) (a : Nat) (v : List Byte) : State := { s with src := s.src.putBytes a v }

/-- Write bytes of DST (10_state.md R38). -/
def State.writeDst (s : State) (a : Nat) (v : List Byte) : State := { s with dst := s.dst.putBytes a v }

/-- Take one draw. -/
def State.draw (s : State) : State := { s with draws := s.draws + 1 }

/-- Every DST byte becomes unspecified (60_exceptions.md R213, 70_reset_and_hazards.md R241; log 5): a fresh draw. -/
def State.loseDst (s : State) : State := { s with dst := [], dstDraw := s.draws, draws := s.draws + 1 }

/-- Replace the hidden state. -/
def State.setHidden (s : State) (h : Hidden) : State := { s with hidden := h }

/-- START acceptance (42_control.md R192): the latch and the registers; DONE_IP is unchanged. -/
def State.accept (s : State) : State :=
  { s with
    hidden := { s.hidden with cmdL := s.cmd, lenL := s.srcLen }
    status := statusBusy
    dstLen := 0
    errPos := 0 }

/-- The registers a success completion with output length `n` writes (42_control.md R193). -/
def State.markSuccess (s : State) (n : Nat) : State :=
  { s with dstLen := BitVec.ofNat 32 n, errPos := 0, status := statusSuccess, doneIp := true }

/-- The registers an error completion writes (60_exceptions.md R213). -/
def State.markError (s : State) (k : ErrKind) (c : Cause) (pos : Nat) : State :=
  { s with dstLen := 0, errPos := BitVec.ofNat 32 pos, status := statusError k c, doneIp := true }

/-- `complete(n)` (42_control.md R193): the output is in DST[0 .. n), the bytes from n on keep their values
(20_memory.md R79). -/
def State.complete (s : State) (out : List Byte) : State := (s.writeDst 0 out).markSuccess out.length

/-- `raise kind(cause, pos)` (60_exceptions.md R213). -/
def State.raise (s : State) (k : ErrKind) (c : Cause) (pos : Nat) (e : DstEffect) : State :=
  match e with
  | .kept => s.markError k c pos
  | .lost => s.loseDst.markError k c pos

/-- The end of a command that left the hidden state `h`. -/
def State.finish (s : State) (e : DstEffect) (r : Hidden × Completion) : State :=
  match r.2 with
  | .success out => (s.setHidden r.1).complete out
  | .error k c pos => (s.setHidden r.1).raise k c pos e

/-- Clear DONE_IP (42_control.md R195): how the host ends its handling of a completion (60_exceptions.md R220). -/
def State.acknowledge (s : State) : State := { s with doneIp := false }

/-- Every register to its reset value (70_reset_and_hazards.md R240); the constants have no storage. -/
def State.clearRegisters (s : State) : State :=
  { s with
    cmd := 0
    srcLen := 0
    dstLen := 0
    status := 0
    errPos := 0
    doneIe := false
    doneIp := false }

/-- The hidden state becomes unspecified (70_reset_and_hazards.md R242): a free value (log 8). -/
def State.loseHidden (s : State) : State :=
  { s with hidden := Config.freeHidden s.draws, draws := s.draws + 1 }

/-- Reset, by the reset input or by SRESET (70_reset_and_hazards.md R240 to R242, 42_control.md R194): a running command is
abandoned and leaves DST unspecified; SRC is unchanged. -/
def State.resetBlock (s : State) : State :=
  if s.busy then s.loseDst.loseHidden.clearRegisters else s.loseHidden.clearRegisters

/-- The reset input is driven to a level (10_state.md R45): asserting it resets the block. -/
def State.driveRst (s : State) (level : Bool) : State :=
  if level then { s.resetBlock with rst := true } else { s with rst := false }

end Sys2Proof.Machine
end

