-- ==== Sys2Proof/Machine/Operands.lean ====
section
/-!
DEFINITION. Operand forms: a command's input SRC[0 .. LEN_L) (10_state.md R20), the registers as a host reads them
(10_state.md R22 to R35) and the bytes of a window access (20_memory.md R65, R68).
-/

namespace Sys2Proof.Machine

/-- The input of the running command: SRC[0 .. LEN_L) (10_state.md R20, R39). -/
def State.input (s : State) : List Byte :=
  (List.range s.hidden.lenL.toNat).map s.srcByte

/-- LEN_L > SRC_CAP (42_control.md R192). -/
def State.inputTooLong (s : State) : Bool :=
  decide (s.params.srcCap < s.hidden.lenL.toNat)

/-- ID (10_state.md R23). -/
def idValue : Word := 0x48464C5A

/-- VERSION (10_state.md R24). -/
def versionValue : Word := 0x00010000

/-- The value a read of the register word at an offset returns (10_state.md R22); CTRL and the reserved words read 0
(R27, R35). -/
def State.readRegister (s : State) (off : Offset) : Word :=
  if off = 0x000#22 then idValue
  else if off = 0x004#22 then versionValue
  else if off = 0x008#22 then BitVec.ofNat 32 s.params.srcCap
  else if off = 0x00C#22 then BitVec.ofNat 32 s.params.dstCap
  else if off = 0x014#22 then s.cmd
  else if off = 0x018#22 then s.srcLen
  else if off = 0x01C#22 then s.dstLen
  else if off = 0x020#22 then s.status
  else if off = 0x024#22 then s.errPos
  else if off = 0x028#22 then s.intEnWord
  else if off = 0x02C#22 then s.intStatWord
  else 0

/-- The bytes a window read of `n` bytes sees at its target (20_memory.md R65). -/
def State.windowBytes (s : State) (t : WindowTarget) (n : Nat) : List Byte :=
  match t with
  | .src a => (List.range n).map fun k => s.srcByte (a + k)
  | .dst a => (List.range n).map fun k => s.dstByte (a + k)

/-- The unspecified value a window read of `n` bytes returns while a command runs (20_memory.md R68): a free value (log 6). -/
def freeRead (draw n : Nat) : Word :=
  leValue ((List.range n).map (Config.freeByte draw))

/-- A window write at its target (20_memory.md R65). -/
def State.writeWindow (s : State) (t : WindowTarget) (v : List Byte) : State :=
  match t with
  | .src a => s.writeSrc a v
  | .dst a => s.writeDst a v

end Sys2Proof.Machine
end

