-- ==== Sys2Proof/Machine/Control.lean ====
section
/-!
DEFINITION. The meanings of the host accesses (42_control.md R190 to R199), the responses to the accesses that are no row of
the opcode table, and the completion of a command word that selects no command (30_encoding.md R96).
-/

namespace Sys2Proof.Machine

/-- START (42_control.md R190 to R192): accepted when no command runs, else ignored. -/
def execStart (v : Word) (s : State) : Host.Outcome State Fault Refusal :=
  if v.getLsbD 0 && !v.getLsbD 1 && !s.busy then .next (s.accept.respond .ok) else .next (s.respond .ok)

/-- SRESET (42_control.md R194). -/
def execSreset (v : Word) (s : State) : Host.Outcome State Fault Refusal :=
  if v.getLsbD 1 then .next (s.resetBlock.respond .ok) else .next (s.respond .ok)

/-- INTACK (42_control.md R195). -/
def execIntack (v : Word) (s : State) : Host.Outcome State Fault Refusal :=
  if v.getLsbD 0 then .next (s.acknowledge.respond .ok) else .next (s.respond .ok)

/-- INT_EN write (42_control.md R196). -/
def execWrIntEn (v : Word) (s : State) : Host.Outcome State Fault Refusal :=
  .next ({ s with doneIe := v.getLsbD 0 }.respond .ok)

/-- CMD and SRC_LEN write (42_control.md R197). -/
def execWrCmdSrcLen (r : CmdReg) (v : Word) (s : State) : Host.Outcome State Fault Refusal :=
  match r with
  | .cmd => .next ({ s with cmd := v }.respond .ok)
  | .srcLen => .next ({ s with srcLen := v }.respond .ok)

/-- Register read (42_control.md R198); an access the register page refuses gets an error response (20_memory.md R63). -/
def execRdReg (off : Offset) (s : State) : Host.Outcome State Fault Refusal :=
  if registerAccessOk s.params off .w32 then .next (s.respond (.data (s.readRegister off)))
  else .next (s.respond .error)

/-- Window access (42_control.md R199): while a command runs a read returns an unspecified value and a write is ignored
(20_memory.md R68); a misaligned or unmapped access gets an error response (R62, R64). -/
def execWinAccess (k : AccessKind) (w : Width) (off : Offset) (s : State) : Host.Outcome State Fault Refusal :=
  match windowTarget s.params off w with
  | none => .next (s.respond .error)
  | some t =>
    match k with
    | .read =>
      if s.busy then .next (s.draw.respond (.data (freeRead s.draws (widthBytes w))))
      else .next (s.respond (.data (leValue (s.windowBytes t (widthBytes w)))))
    | .write v =>
      if s.busy then .next (s.respond .ok)
      else .next ((s.writeWindow t (leBytes (widthBytes w) v)).respond .ok)

/-- The response to a host access that is no row of the opcode table: an error response (20_memory.md R62 to R64) or a normal
one without effect (10_state.md R22, R35; 42_control.md R190, R195, R198). No register, latch or memory changes. -/
def rejectedAccess (r : Reject) (s : State) : State :=
  match r with
  | .invalidCommand => s.respond .error
  | .unmapped => s.respond .error
  | .registerAccess => s.respond .error
  | .misaligned => s.respond .error
  | .ctrlNothing => s.respond .ok
  | .intStatNothing => s.respond .ok
  | .readOnly => s.respond .ok
  | .reservedWord => s.respond .ok

/-- The completion of a command whose CMD_L selects no command (30_encoding.md R96, 42_control.md R192). -/
def badCommand (s : State) : State :=
  s.raise .unsupportedAlgorithm .badCmd 0 .kept

end Sys2Proof.Machine
end

