-- ==== Sys2Proof/Machine/HuffmanCodec.lean ====
section
/-!
DEFINITION. The Huffman family's frequency table, tree builder, code generator, packer and unpacker (40_huffman.md R120 to
R136), over the input bytes and the hidden state the command itself writes.
-/

namespace Sys2Proof.Machine

/-- `FREQ[s] <- FREQ[s] + 1` (40_huffman.md R120), keeping the byte values ascending. -/
def Huffman.bump : FreqTable → Byte → FreqTable
  | [], b => [(b, 1)]
  | (c, n) :: f, b =>
    if b < c then (b, 1) :: (c, n) :: f
    else if b = c then (c, n + 1) :: f
    else (c, n) :: Huffman.bump f b

/-- The frequency-table builder (40_huffman.md R120). -/
def Huffman.freqOf (x : List Byte) : FreqTable :=
  x.foldl Huffman.bump []

/-- FREQ[s] (10_state.md R40): an absent symbol has count 0. -/
def Huffman.freqAt (f : FreqTable) (s : Byte) : Word :=
  (f.lookup s).getD 0

/-- The leaf list, in ascending byte order (40_huffman.md R121). -/
def Huffman.leaves (f : FreqTable) : List Node :=
  f.map fun e => .leaf e.1 (e.2.setWidth 40)

/-- NODE[x].freq. -/
def Huffman.nodeFreq : Node → BitVec 40
  | .leaf _ n => n
  | .internal n _ _ => n

/-- NODE[x].freq by arena index. -/
def Huffman.freqOfNode (node : List Node) (x : Nat) : BitVec 40 :=
  ((node[x]?).map Huffman.nodeFreq).getD 0

/-- The key order of the pool: freq, then arena index (40_huffman.md R122, R125). -/
def Huffman.keyLt (node : List Node) (x y : Nat) : Bool :=
  decide (Huffman.freqOfNode node x < Huffman.freqOfNode node y) ||
    (Huffman.freqOfNode node x == Huffman.freqOfNode node y && decide (x < y))

/-- The element of the pool with the least key (40_huffman.md R122). -/
def Huffman.leastKey (node : List Node) : List Nat → Option Nat
  | [] => none
  | x :: xs =>
    match Huffman.leastKey node xs with
    | none => some x
    | some y => if Huffman.keyLt node y x then some y else some x

/-- The arena with its root. -/
structure Tree where
  node : List Node
  root : BitVec 9
deriving DecidableEq, Repr

/-- The internal node over arena indices `a` (left, bit 0) and `b` (right, bit 1) (40_huffman.md R122, R126). -/
def Huffman.mergeNode (node : List Node) (a b : Nat) : Node :=
  .internal (Huffman.freqOfNode node a + Huffman.freqOfNode node b) (some (BitVec.ofNat 9 a)) (some (BitVec.ofNat 9 b))

/-- The merging loop of the tree builder (40_huffman.md R122): one pass per unit of fuel, while the pool has two elements. -/
def Huffman.mergeLoop : Nat → List Node → List Nat → Tree
  | 0, node, pool => { node := node, root := BitVec.ofNat 9 (pool.headD 0) }
  | fuel + 1, node, pool =>
    match Huffman.leastKey node pool with
    | none => { node := node, root := 0 }
    | some a =>
      match Huffman.leastKey node (pool.erase a) with
      | none => { node := node, root := BitVec.ofNat 9 a }
      | some b =>
        Huffman.mergeLoop fuel (node ++ [Huffman.mergeNode node a b]) (((pool.erase a).erase b) ++ [node.length])

/-- The tree builder (40_huffman.md R122 for two symbols or more, R123 for one; R124: never run on an empty table). -/
def Huffman.buildTree (f : FreqTable) : Tree :=
  match Huffman.leaves f with
  | [] => { node := [], root := 0 }
  | [n] => { node := [n, .internal (Huffman.nodeFreq n) (some 0) none], root := 1 }
  | ns => Huffman.mergeLoop ns.length ns (List.range ns.length)

/-- `walk(x, path)` of the code generator (40_huffman.md R127); the fuel bounds the depth. -/
def Huffman.walkCodes (node : List Node) : Nat → Nat → List Bool → CodeTable
  | 0, _, _ => []
  | fuel + 1, x, path =>
    match node[x]? with
    | none => []
    | some (.leaf s _) => [(s, path)]
    | some (.internal _ left right) =>
      (match left with
        | none => []
        | some y => Huffman.walkCodes node fuel y.toNat (path ++ [false])) ++
      (match right with
        | none => []
        | some y => Huffman.walkCodes node fuel y.toNat (path ++ [true]))

/-- The code generator (40_huffman.md R127). -/
def Huffman.codesOf (t : Tree) : CodeTable :=
  Huffman.walkCodes t.node t.node.length t.root.toNat []

/-- CODE[s] (10_state.md R42): an absent symbol has the empty code. -/
def Huffman.codeAt (c : CodeTable) (s : Byte) : List Bool :=
  (c.lookup s).getD []

/-- The bit string of the input (40_huffman.md R129). -/
def Huffman.bitString (c : CodeTable) (x : List Byte) : List Bool :=
  x.flatMap (Huffman.codeAt c)

/-- One serialized entry (30_encoding.md R102). -/
def Huffman.entryBytes (e : Byte × Word) : List Byte :=
  e.1 :: bytesBE32 e.2

/-- tableLen and the serialized table (40_huffman.md R131). -/
def Huffman.tableBytes (f : FreqTable) : List Byte :=
  bytesBE32 (BitVec.ofNat 32 (5 * f.length)) ++ f.flatMap Huffman.entryBytes

/-- The blob (30_encoding.md R100): the table, the padding count, the packed bits. -/
def Huffman.blobOf (f : FreqTable) (bits : List Bool) : List Byte :=
  Huffman.tableBytes f ++ BitVec.ofNat 8 (paddingCount bits.length) :: packBits bits

/-- Store FREQ and the tree it gives (40_huffman.md R121 to R123). -/
def Huffman.setTables (h : Hidden) (f : FreqTable) : Hidden :=
  { h with freq := f, node := (Huffman.buildTree f).node, root := (Huffman.buildTree f).root }

/-- Store the codes of the stored tree (40_huffman.md R127). -/
def Huffman.setCodes (h : Hidden) : Hidden :=
  { h with code := Huffman.codesOf { node := h.node, root := h.root } }

/-- The hidden state HUFC builds for a non-empty input (40_huffman.md R132). -/
def Huffman.encoderTables (h : Hidden) (x : List Byte) : Hidden :=
  Huffman.setCodes (Huffman.setTables h (Huffman.freqOf x))

/-- The blob HUFC writes for a non-empty input, from the tables it built. -/
def Huffman.encoderBlob (h : Hidden) (x : List Byte) : List Byte :=
  Huffman.blobOf h.freq (Huffman.bitString h.code x)

/-- HUFC's body (40_huffman.md R132) on the input `x` with `cap` bytes of DST. -/
def Huffman.compress (h : Hidden) (x : List Byte) (cap : Nat) : Hidden × Completion :=
  if x = [] then (h, .success [])
  else if cap < (Huffman.encoderBlob (Huffman.encoderTables h x) x).length then
    (Huffman.encoderTables h x, .error .compressionFailed .outOverflow 0)
  else (Huffman.encoderTables h x, .success (Huffman.encoderBlob (Huffman.encoderTables h x) x))

/-- The table parse of HUFD (40_huffman.md R133): `left` entries from entry `e` on, onto the table parsed so far. -/
def Huffman.parseTable (x : List Byte) : Nat → Nat → FreqTable → FreqTable × Option (Cause × Nat)
  | 0, _, f => (f, none)
  | left + 1, e, f =>
    if 0 < e ∧ byteAt x (4 + 5 * e) ≤ byteAt x (4 + 5 * e - 5) then (f, some (.hufTableOrder, 4 + 5 * e))
    else if be32At x (4 + 5 * e + 1) = 0 then (f, some (.hufTableZero, 4 + 5 * e))
    else Huffman.parseTable x left (e + 1) (f ++ [(byteAt x (4 + 5 * e), be32At x (4 + 5 * e + 1))])

/-- The child of arena node `cur` that a bit leads to (40_huffman.md R135). -/
def Huffman.child (node : List Node) (cur : BitVec 9) (bit : Bool) : Option (BitVec 9) :=
  match node[cur.toNat]? with
  | some (.internal _ left right) => if bit then right else left
  | some (.leaf _ _) => none
  | none => none

/-- The symbol of arena node `x`, where it is a leaf. -/
def Huffman.leafSym (node : List Node) (x : BitVec 9) : Option Byte :=
  match node[x.toNat]? with
  | some (.leaf s _) => some s
  | some (.internal _ _ _) => none
  | none => none

/-- Store the walk's working registers (10_state.md R43). -/
def Huffman.setWalk (h : Hidden) (bp : Nat) (cur : BitVec 9) (o : Nat) : Hidden :=
  { h with bp := BitVec.ofNat 24 bp, cur := cur, o := BitVec.ofNat 21 o }

/-- HUFD's tree walk (40_huffman.md R135) over the remaining bits: `first` is the index of the first packed byte, `len` the
blob's length, `out` the output so far. -/
def Huffman.walkBits (h : Hidden) (cap first len : Nat) :
    List Bool → Nat → BitVec 9 → List Byte → Hidden × Completion
  | [], bp, cur, out =>
    (Huffman.setWalk h bp cur out.length,
      if cur = h.root then .success out else .error .malformedInput .hufTruncated len)
  | bit :: bits, bp, cur, out =>
    match Huffman.child h.node cur bit with
    | none => (Huffman.setWalk h bp cur out.length, .error .malformedInput .hufBadCode (first + bp / 8))
    | some nxt =>
      match Huffman.leafSym h.node nxt with
      | none => Huffman.walkBits h cap first len bits (bp + 1) nxt out
      | some s =>
        if out.length = cap then
          (Huffman.setWalk h bp nxt out.length, .error .decompressionFailed .outOverflow (first + bp / 8))
        else Huffman.walkBits h cap first len bits (bp + 1) h.root (out ++ [s])

/-- tableLen of a blob, as a natural number (30_encoding.md R101). -/
def Huffman.tableLen (x : List Byte) : Nat := (be32At x 0).toNat

/-- The packed bits of a blob, without the padding (30_encoding.md R104). -/
def Huffman.packedBits (x : List Byte) : List Bool :=
  (unpackBits (x.drop (5 + Huffman.tableLen x))).take
    (8 * (x.length - 5 - Huffman.tableLen x) - (byteAt x (4 + Huffman.tableLen x)).toNat)

/-- HUFD from the padding check on (40_huffman.md R133's end, R134, R135), with the parsed table stored in `h`. -/
def Huffman.decodeBody (h : Hidden) (x : List Byte) (cap : Nat) : Hidden × Completion :=
  let t := Huffman.tableLen x
  let p := byteAt x (4 + t)
  let packed := x.length - 5 - t
  if 7 < p.toNat ∨ (packed = 0 ∧ p ≠ 0) then (h, .error .malformedInput .hufPadRange (4 + t))
  else if t / 5 = 0 then
    if 0 < packed then (h, .error .malformedInput .hufEmptyTableBits (5 + t)) else (h, .success [])
  else
    Huffman.walkBits (Huffman.setTables h h.freq) cap (5 + t) x.length (Huffman.packedBits x) 0
      (Huffman.setTables h h.freq).root []

/-- HUFD's body (40_huffman.md R133 to R136) on the blob `x` with `cap` bytes of DST. -/
def Huffman.decompress (h : Hidden) (x : List Byte) (cap : Nat) : Hidden × Completion :=
  let t := Huffman.tableLen x
  if x = [] then (h, .success [])
  else if x.length < 4 then (h, .error .malformedInput .hufHdrShort 0)
  else if x.length - 4 < t then (h, .error .malformedInput .hufTableOverrun 0)
  else if t = x.length - 4 then (h, .error .malformedInput .hufPadMissing x.length)
  else if t % 5 ≠ 0 then (h, .error .malformedInput .hufTableFormat 0)
  else
    match Huffman.parseTable x (t / 5) 0 [] with
    | (f, some (c, q)) => ({ h with freq := f }, .error .malformedInput c q)
    | (f, none) => Huffman.decodeBody { h with freq := f } x cap

end Sys2Proof.Machine
end

