-- ==== Sys2Proof/Machine/Huffman.lean ====
section
/-!
DEFINITION. The meanings of HUFC and HUFD (40_huffman.md R132, R136), with the length check that comes before them
(42_control.md R192).
-/

namespace Sys2Proof.Machine

/-- HUFC (40_huffman.md R132). Its OUT_OVERFLOW leaves DST unchanged (60_exceptions.md R213). -/
def execHufc (s : State) : Host.Outcome State Fault Refusal :=
  if s.inputTooLong then .next (s.raise .compressionFailed .srcLenRange 0 .kept)
  else .next (s.finish .kept (Huffman.compress s.hidden s.input s.params.dstCap))

/-- HUFD (40_huffman.md R136). An error of its own leaves DST unspecified (60_exceptions.md R213). -/
def execHufd (s : State) : Host.Outcome State Fault Refusal :=
  if s.inputTooLong then .next (s.raise .decompressionFailed .srcLenRange 0 .kept)
  else .next (s.finish .lost (Huffman.decompress s.hidden s.input s.params.dstCap))

end Sys2Proof.Machine
end

