-- ==== Sys2Proof/Machine/Lz77Codec.lean ====
section
/-!
DEFINITION. The LZ77 family's match engine, triple encoder and triple decoder (41_lz77.md R160 to R169), over the input bytes
and the working registers the command itself writes.
-/

namespace Sys2Proof.Machine

/-- The oldest match source at position `i` under window size `w` (41_lz77.md R160). -/
def Lz77.windowStart (w i : Nat) : Nat :=
  if w ≤ i then i - w else 0

/-- The longest match allowed at position `i` of an `n`-byte input (41_lz77.md R161). -/
def Lz77.lengthCap (n i : Nat) : Nat :=
  min 255 (n - i - 1)

/-- The number of leading positions, at most the cap, at which two byte strings agree (41_lz77.md R162). -/
def Lz77.agreeing : Nat → List Byte → List Byte → Nat
  | 0, _, _ => 0
  | _ + 1, [], _ => 0
  | _ + 1, _ :: _, [] => 0
  | cap + 1, a :: as, b :: bs => if a = b then Lz77.agreeing cap as bs + 1 else 0

/-- The length of the match at source `j` for position `i` (41_lz77.md R162); it may run past `i`. -/
def Lz77.matchLength (x : List Byte) (i j : Nat) : Nat :=
  Lz77.agreeing (Lz77.lengthCap x.length i) (x.drop j) (x.drop i)

/-- The LZ77 search registers (10_state.md R43), as the naturals they hold (41_lz77.md R172). -/
structure Search where
  bestLen : Nat
  bestOff : Nat
  j : Nat
  l : Nat
deriving DecidableEq, Repr

/-- One window source (41_lz77.md R163): the first strictly greater length is kept. -/
def Lz77.tryOne (x : List Byte) (i : Nat) (r : Search) (j : Nat) : Search :=
  if r.bestLen < Lz77.matchLength x i j then
    { bestLen := Lz77.matchLength x i j, bestOff := i - j, j := j, l := Lz77.matchLength x i j }
  else { r with j := j, l := Lz77.matchLength x i j }

/-- Match selection at position `i` (41_lz77.md R163): the window from its oldest to its newest byte. -/
def Lz77.search (x : List Byte) (w i : Nat) (r : Search) : Search :=
  if 0 < Lz77.lengthCap x.length i then
    (List.range' (Lz77.windowStart w i) (i - Lz77.windowStart w i)).foldl (Lz77.tryOne x i)
      { r with bestLen := 0, bestOff := 0 }
  else { r with bestLen := 0, bestOff := 0 }

/-- The three bytes of the token at position `i` (41_lz77.md R164, 30_encoding.md R106). -/
def Lz77.tokenBytes (x : List Byte) (i : Nat) (r : Search) : List Byte :=
  [BitVec.ofNat 8 r.bestOff, BitVec.ofNat 8 r.bestLen, byteAt x (i + r.bestLen)]

/-- Store the working registers of LZC (10_state.md R43). -/
def Lz77.setSearch (h : Hidden) (i o : Nat) (r : Search) : Hidden :=
  { h with
    i := BitVec.ofNat 21 i
    o := BitVec.ofNat 21 o
    bestLen := BitVec.ofNat 8 r.bestLen
    bestOff := BitVec.ofNat 8 r.bestOff
    j := BitVec.ofNat 21 r.j
    l := BitVec.ofNat 8 r.l }

/-- LZC's loop (41_lz77.md R166) from position `i` with the output so far; one token per unit of fuel, and an n-byte input
has at most n tokens (R165). -/
def Lz77.encodeLoop (h : Hidden) (x : List Byte) (w cap : Nat) :
    Nat → Nat → Search → List Byte → Hidden × Completion
  | 0, i, r, out => (Lz77.setSearch h i out.length r, .success out)
  | fuel + 1, i, r, out =>
    if i < x.length then
      if cap < out.length + 3 then
        (Lz77.setSearch h i out.length (Lz77.search x w i r), .error .compressionFailed .outOverflow i)
      else
        Lz77.encodeLoop h x w cap fuel (i + (Lz77.search x w i r).bestLen + 1) (Lz77.search x w i r)
          (out ++ Lz77.tokenBytes x i (Lz77.search x w i r))
    else (Lz77.setSearch h i out.length r, .success out)

/-- The search registers the hidden state holds. -/
def Lz77.searchOf (h : Hidden) : Search :=
  { bestLen := h.bestLen.toNat, bestOff := h.bestOff.toNat, j := h.j.toNat, l := h.l.toNat }

/-- LZC's body (41_lz77.md R166) on the input `x` with window size `w` and `cap` bytes of DST. -/
def Lz77.compress (h : Hidden) (x : List Byte) (w : Byte) (cap : Nat) : Hidden × Completion :=
  Lz77.encodeLoop h x w.toNat cap x.length 0 (Lz77.searchOf h) []

/-- The copy of one token (41_lz77.md R168): `len` bytes from `st` on, byte by byte, each appended before the next is read. -/
def Lz77.copyBytes (st : Nat) : Nat → Nat → List Byte → List Byte
  | 0, _, out => out
  | len + 1, r, out => Lz77.copyBytes st len (r + 1) (out ++ [byteAt out (st + r)])

/-- The output after one token whose checks passed (41_lz77.md R168). -/
def Lz77.applyToken (off len lit : Byte) (out : List Byte) : List Byte :=
  Lz77.copyBytes (out.length - off.toNat) len.toNat 0 out ++ [lit]

/-- The check of one token that fails first, if any (41_lz77.md R168): its kind and cause. -/
def Lz77.tokenError (cap : Nat) (off len : Byte) (o : Nat) : Option (ErrKind × Cause) :=
  if o < off.toNat then some (.malformedInput, .lzOffsetRange)
  else if off = 0 ∧ 0 < len.toNat then some (.malformedInput, .lzZeroOffset)
  else if cap < o + len.toNat + 1 then some (.decompressionFailed, .outOverflow)
  else none

/-- Store the output position of LZD (10_state.md R43). -/
def Lz77.setOut (h : Hidden) (o : Nat) : Hidden := { h with o := BitVec.ofNat 21 o }

/-- LZD's loop (41_lz77.md R168, R169) over the rest of the blob from token `t` on, with the output so far. -/
def Lz77.decodeLoop (h : Hidden) (cap : Nat) : List Byte → Nat → List Byte → Hidden × Completion
  | off :: len :: lit :: rest, t, out =>
    match Lz77.tokenError cap off len out.length with
    | some (k, c) => (Lz77.setOut h out.length, .error k c (3 * t))
    | none => Lz77.decodeLoop h cap rest (t + 1) (Lz77.applyToken off len lit out)
  | [], _, out => (Lz77.setOut h out.length, .success out)
  | [_], _, out => (Lz77.setOut h out.length, .success out)
  | [_, _], _, out => (Lz77.setOut h out.length, .success out)

/-- LZD's body (41_lz77.md R167 to R169) on the blob `x` with `cap` bytes of DST. -/
def Lz77.decompress (h : Hidden) (x : List Byte) (cap : Nat) : Hidden × Completion :=
  if x.length % 3 ≠ 0 then (h, .error .malformedInput .lzLenMod3 (x.length - x.length % 3))
  else Lz77.decodeLoop h cap x 0 []

end Sys2Proof.Machine
end

