-- ==== Sys2Proof/Machine/Lz77.lean ====
section
/-!
DEFINITION. The meanings of LZC and LZD (41_lz77.md R166, R169), with the length check that comes before them
(42_control.md R192).
-/

namespace Sys2Proof.Machine

/-- LZC with window size `w` (41_lz77.md R166). Its OUT_OVERFLOW leaves DST unspecified (60_exceptions.md R213). -/
def execLzc (w : Byte) (s : State) : Host.Outcome State Fault Refusal :=
  if s.inputTooLong then .next (s.raise .compressionFailed .srcLenRange 0 .kept)
  else .next (s.finish .lost (Lz77.compress s.hidden s.input w s.params.dstCap))

/-- LZD (41_lz77.md R169). An error of its own leaves DST unspecified (60_exceptions.md R213). -/
def execLzd (s : State) : Host.Outcome State Fault Refusal :=
  if s.inputTooLong then .next (s.raise .decompressionFailed .srcLenRange 0 .kept)
  else .next (s.finish .lost (Lz77.decompress s.hidden s.input s.params.dstCap))

end Sys2Proof.Machine
end

