-- ==== Sys2Proof/Machine/Dispatch.lean ====
section
/-!
DEFINITION. One arm per constructor of Instr, each one direct call of that instruction's meaning.
-/

namespace Sys2Proof.Machine

def exec (i : Instr) (s : State) : Host.Outcome State Fault Refusal :=
  match i with
  | .hufc => Sys2Proof.Machine.execHufc s
  | .hufd => Sys2Proof.Machine.execHufd s
  | .lzc w => Sys2Proof.Machine.execLzc w s
  | .lzd => Sys2Proof.Machine.execLzd s
  | .start v => Sys2Proof.Machine.execStart v s
  | .sreset v => Sys2Proof.Machine.execSreset v s
  | .intack v => Sys2Proof.Machine.execIntack v s
  | .wrIntEn v => Sys2Proof.Machine.execWrIntEn v s
  | .wrCmdSrcLen r v => Sys2Proof.Machine.execWrCmdSrcLen r v s
  | .rdReg off => Sys2Proof.Machine.execRdReg off s
  | .winAccess k w off => Sys2Proof.Machine.execWinAccess k w off s

end Sys2Proof.Machine
end

