-- ==== Sys2Proof/Machine/Turns.lean ====
section
/-!
DEFINITION. What one event does: the engine's turn (00_scope.md R17, 42_control.md R192, R193), a host access (20_memory.md
R61 to R71) and the reset input (10_state.md R45).
-/

namespace Sys2Proof.Machine

/-- The command the latch holds (30_encoding.md R95, 10_state.md R39). -/
def State.latchedCommand (s : State) : Except Reject Instr :=
  decode s.params (.command s.hidden.cmdL)

/-- The engine's turn: where a command runs, its whole effect as one completion step (20_memory.md R70), a word that selects
no command ending as BAD_CMD (42_control.md R192); else nothing. Under reset the engine does not run (10_state.md R45). -/
def engineTurn (s : State) : Host.Outcome State Fault Refusal :=
  if s.rst || !s.busy then .next s
  else
    match s.latchedCommand with
    | .ok i => exec i s
    | .error _ => .next (badCommand s)

/-- A host access: refused under reset (10_state.md R45), else the instruction it decodes to, or the response the spec gives
an access that is none. -/
def hostTurn (a : Access) (s : State) : Host.Outcome State Fault Refusal :=
  if s.rst then .next (s.respond .error)
  else
    match decode s.params (.access a) with
    | .ok i => exec i s
    | .error r => .next (rejectedAccess r s)

/-- One event. -/
def takeEvent (e : Event) (s : State) : Host.Outcome State Fault Refusal :=
  match e with
  | .host a => hostTurn a s
  | .engine => engineTurn s
  | .rst level => .next (s.driveRst level)

/-- Put a command word where the engine finds its running command: latched, with STATUS.BUSY as an acceptance leaves it. -/
def State.placeCommand (s : State) (c : Word) : State :=
  { s with hidden := { s.hidden with cmdL := c }, status := statusBusy, rst := false, events := .engine :: s.events }

/-- Put a host access first in the schedule. -/
def State.placeAccess (s : State) (a : Access) : State :=
  { s with rst := false, events := .host a :: s.events }

/-- Put an encoding where the block takes its next instruction from. -/
def State.place (s : State) : Encoding → State
  | .command c => s.placeCommand c
  | .access a => s.placeAccess a

end Sys2Proof.Machine
end

