-- ==== Sys2Proof/Machine/Step.lean ====
section
/-!
DEFINITION. One step: the next event of the schedule, or, when none is left, the engine's turn (log 1). A bare word of the
opcode table as the next instruction (log 12, 13).
-/

namespace Sys2Proof.Machine

/-- One step of the block. -/
def step (s : State) : Host.Outcome State Fault Refusal :=
  match s.events with
  | [] => engineTurn s
  | e :: es => takeEvent e { s with events := es }

/-- The state in which the very next step runs the instruction a bare table word stands for. -/
def State.withFetchWord (s : State) (nbits w : Nat) : State :=
  s.place (tableWordEncoding (tableWordBits nbits w))

end Sys2Proof.Machine
end

