-- ==== Sys2Proof/Machine/Assembler.lean ====
section
/-!
DEFINITION. The spec's assembler: command words (30_encoding.md R97, R98) and host programs as lists of bus accesses, with
the pseudo-accesses (R99). A line is a list of characters; what the assembler refuses gives none (log 22).
-/

namespace Sys2Proof.Machine

/-- A word of a line. -/
abbrev Token := List Char

/-- Spaces and commas stand between the words of a line. -/
def isSeparator (c : Char) : Bool := c == ' ' || c == ','

/-- The words of a line, in lower case: the syntax is case-insensitive (30_encoding.md R97). `word` is the word being read. -/
def splitWords : List Char → Token → List Token
  | [], word => if word = [] then [] else [word]
  | c :: cs, word =>
    if isSeparator c then (if word = [] then splitWords cs [] else word :: splitWords cs [])
    else splitWords cs (word ++ [c.toLower])

/-- The words of a line. -/
def tokens (line : List Char) : List Token := splitWords line []

/-- The value of a digit, 0 to 15. -/
def digitValue (c : Char) : Option Nat :=
  if '0'.toNat ≤ c.toNat ∧ c.toNat ≤ '9'.toNat then some (c.toNat - '0'.toNat)
  else if 'a'.toNat ≤ c.toNat ∧ c.toNat ≤ 'f'.toNat then some (c.toNat - 'a'.toNat + 10)
  else none

/-- The digits of a number in a base, after the value read so far. -/
def digitsValue (base : Nat) : Token → Nat → Option Nat
  | [], acc => some acc
  | c :: cs, acc =>
    match digitValue c with
    | some d => if d < base then digitsValue base cs (base * acc + d) else none
    | none => none

/-- A decimal or 0x-hex number (30_encoding.md R97). -/
def number : Token → Option Nat
  | [] => none
  | ['0', 'x'] => none
  | '0' :: 'x' :: c :: cs => digitsValue 16 (c :: cs) 0
  | c :: cs => digitsValue 10 (c :: cs) 0

/-- A number that fits `bits` bits. -/
def numberBelow (bits : Nat) (t : Token) : Option Nat :=
  match number t with
  | some n => if n < 2 ^ bits then some n else none
  | none => none

/-- The encoding of a command as its word. -/
def commandWord (i : Instr) : Option Word :=
  match encode i with
  | .command c => some c
  | .access _ => none

/-- A command line (30_encoding.md R97); `LZC` with no operand is `LZC 255` (R98). -/
def assembleCommand (ws : List Token) : Option Word :=
  match ws with
  | [m] =>
    if m = "hufc".toList then commandWord .hufc
    else if m = "hufd".toList then commandWord .hufd
    else if m = "lzc".toList then commandWord (.lzc 255)
    else if m = "lzd".toList then commandWord .lzd
    else none
  | [m, w] => if m = "lzc".toList then ((numberBelow 8 w).map (BitVec.ofNat 8)).bind fun w => commandWord (.lzc w) else none
  | _ => none

/-- One host access from its parts. -/
def accessOf (k : AccessKind) (w : Width) (off : Nat) : Access :=
  { kind := k, off := BitVec.ofNat 22 off, width := w }

/-- The accesses of `load b0 b1 ... bn-1` (30_encoding.md R99) from buffer index `a` on. -/
def loadAccesses : Nat → List Nat → List Access
  | a, [] => [accessOf (.write (BitVec.ofNat 32 a)) .w32 0x018]
  | a, b :: bs => accessOf (.write (BitVec.ofNat 32 b)) .w8 (0x100000 + a) :: loadAccesses (a + 1) bs

/-- The accesses of `run CMD` (30_encoding.md R99). -/
def runAccesses (c : Word) : List Access :=
  [accessOf (.write c) .w32 0x014, accessOf (.write 1) .w32 0x010]

/-- The accesses of `dump n` (30_encoding.md R99). -/
def dumpAccesses (n : Nat) : List Access :=
  (List.range n).map fun k => accessOf .read .w8 (0x200000 + k)

/-- The accesses of `wait` when the status read answers DONE at poll number `polls` (30_encoding.md R99). -/
def waitAccesses (polls : Nat) : List Access :=
  List.replicate polls (accessOf .read .w32 0x020)

/-- The width a `wr` or `rd` word names, and whether it writes. -/
def accessWord (m : Token) : Option (Bool × Width) :=
  if m = "wr8".toList then some (true, .w8)
  else if m = "wr16".toList then some (true, .w16)
  else if m = "wr32".toList then some (true, .w32)
  else if m = "rd8".toList then some (false, .w8)
  else if m = "rd16".toList then some (false, .w16)
  else if m = "rd32".toList then some (false, .w32)
  else none

/-- The bits of an access of a width. -/
def widthBits : Width → Nat
  | .w8 => 8
  | .w16 => 16
  | .w32 => 32

/-- A `wr` or `rd` line (30_encoding.md R99); a read's `-> v` only records the value returned. -/
def assembleAccess (ws : List Token) : Option Access :=
  match ws with
  | [] => none
  | m :: args =>
    match accessWord m, args with
    | some (true, w), [off, v] =>
      match numberBelow 22 off, numberBelow (widthBits w) v with
      | some off, some v => some (accessOf (.write (BitVec.ofNat 32 v)) w off)
      | _, _ => none
    | some (false, w), [off] => (numberBelow 22 off).map (accessOf .read w)
    | some (false, w), [off, arrow, _] =>
      if arrow = "->".toList then (numberBelow 22 off).map (accessOf .read w) else none
    | _, _ => none

/-- The command word of `run`'s operand: a command mnemonic or a word (30_encoding.md R99). -/
def runOperand (ws : List Token) : Option Word :=
  match assembleCommand ws, ws with
  | some c, _ => some c
  | none, [w] => (numberBelow 32 w).map (BitVec.ofNat 32)
  | none, _ => none

/-- One line of a host program (30_encoding.md R99) as its bus accesses; `polls` is how often a `wait` reads STATUS. -/
def assembleLine (polls : Nat) (line : List Char) : Option (List Access) :=
  match tokens line with
  | [] => some []
  | m :: args =>
    if m = "load".toList then (args.mapM (numberBelow 8)).map (loadAccesses 0)
    else if m = "run".toList then (runOperand args).map runAccesses
    else if m = "wait".toList ∧ args = [] then some (waitAccesses polls)
    else if m = "ack".toList ∧ args = [] then some [accessOf (.write 1) .w32 0x02C]
    else if m = "srst".toList ∧ args = [] then some [accessOf (.write 2) .w32 0x010]
    else if m = "dump".toList then
      match args with
      | [n] => (numberBelow 21 n).map dumpAccesses
      | _ => none
    else (assembleAccess (m :: args)).map fun a => [a]

end Sys2Proof.Machine
end

