-- ==== Sys2Proof/Safety.lean ====
section
/-!
DEFINITION. The invariant of the block's states (10_state.md R30 to R32, R36 to R38; 60_exceptions.md R211, R212) and what
counts as a safe step, in the terms the statements use.
-/

namespace Sys2Proof.Machine

/-- The kinds each cause is recorded under (60_exceptions.md R211). -/
def causeKinds : Cause → List ErrKind
  | .badCmd => [.unsupportedAlgorithm]
  | .srcLenRange => [.compressionFailed, .decompressionFailed]
  | .outOverflow => [.compressionFailed, .decompressionFailed]
  | .hufHdrShort => [.malformedInput]
  | .hufTableOverrun => [.malformedInput]
  | .hufPadMissing => [.malformedInput]
  | .hufTableFormat => [.malformedInput]
  | .hufTableOrder => [.malformedInput]
  | .hufTableZero => [.malformedInput]
  | .hufPadRange => [.malformedInput]
  | .hufEmptyTableBits => [.malformedInput]
  | .hufBadCode => [.malformedInput]
  | .hufTruncated => [.malformedInput]
  | .lzLenMod3 => [.malformedInput]
  | .lzOffsetRange => [.malformedInput]
  | .lzZeroOffset => [.malformedInput]

/-- The STATUS values the block can show (10_state.md R31, 60_exceptions.md R211). -/
def StatusLegal (w : Word) : Prop :=
  w = 0 ∨ w = statusBusy ∨ w = statusSuccess ∨ ∃ k c, k ∈ causeKinds c ∧ w = statusError k c

/-- The invariant of the block's states. -/
structure State.Inv (s : State) : Prop where
  /-- The parameters are legal (00_scope.md R5). -/
  params_legal : s.params.legal
  /-- SRC is in canonical form and holds indices below SRC_CAP only (10_state.md R37). -/
  src_wf : s.src.wf
  src_bound : ∀ c ∈ s.src, c.1 < s.params.srcCap
  /-- DST is in canonical form and holds indices below DST_CAP only (10_state.md R38). -/
  dst_wf : s.dst.wf
  dst_bound : ∀ c ∈ s.dst, c.1 < s.params.dstCap
  /-- STATUS shows a legal combination (10_state.md R31). -/
  status_legal : StatusLegal s.status
  /-- DST_LEN never exceeds DST_CAP, and is 0 but after a success completion (10_state.md R30). -/
  dstLen_le : s.dstLen.toNat ≤ s.params.dstCap
  dstLen_zero : s.status ≠ statusSuccess → s.dstLen = 0
  /-- ERR_POS is 0 but after an error completion, and then an index into the input or its length (10_state.md R32,
  60_exceptions.md R212). -/
  errPos_zero : s.err = false → s.errPos = 0
  errPos_le : s.err = true → s.errPos.toNat ≤ s.hidden.lenL.toNat
  /-- The next draw is a fresh one, and DST's draw is not SRC's (log 9). -/
  draws_fresh : 0 < s.dstDraw ∧ s.dstDraw < s.draws

/-- A step is safe when it answers a next state. -/
def SafeStep (s : State) : Prop := ∃ t, step s = .next t

end Sys2Proof.Machine
end

