-- ==== Sys2Proof/Certificates/Slice0/Obligations.lean ====
section
/-!
DEFINITION. The statements for the provers. The words they are written in come first: what a completion leaves, the map, the
match and token relations of the LZ77 family and the pool of the tree builder, each written from the spec's rule and not from
the model's loops.
-/

namespace Sys2Proof.Claims

open Sys2Proof.Machine

/-! ### Words of the statements -/

/-- The latched input length is at most SRC_CAP (42_control.md R192). -/
def Fits (s : State) : Prop := s.hidden.lenL.toNat ≤ s.params.srcCap

/-- The four commands. -/
def isCommand : Instr → Bool
  | .hufc => true
  | .hufd => true
  | .lzc _ => true
  | .lzd => true
  | .start _ => false
  | .sreset _ => false
  | .intack _ => false
  | .wrIntEn _ => false
  | .wrCmdSrcLen _ _ => false
  | .rdReg _ => false
  | .winAccess _ _ _ => false

/-- The STATUS word of an error completion, from its numeric kind and cause (60_exceptions.md R213). -/
def errorWord (kind cause : Nat) : Word := BitVec.ofNat 32 (6 + 16 * kind + 256 * cause)

/-- A command writes DST_LEN, ERR_POS, STATUS, DONE_IP, DST and the hidden state, but not the latch, and nothing else. -/
def CommandKeeps (s t : State) : Prop :=
  t = { s with
        dstLen := t.dstLen, errPos := t.errPos, status := t.status, doneIp := t.doneIp, dst := t.dst, dstDraw := t.dstDraw,
        draws := t.draws, hidden := t.hidden } ∧
    t.hidden.cmdL = s.hidden.cmdL ∧ t.hidden.lenL = s.hidden.lenL ∧ ∀ a, t.srcByte a = s.srcByte a

/-- DST reads as before at every index. -/
def DstKept (s t : State) : Prop := ∀ a, t.dstByte a = s.dstByte a

/-- The command of `s` ended in `t` with success and output `out` (42_control.md R193, 20_memory.md R79). -/
def CompletedWith (s t : State) (out : List Byte) : Prop :=
  t.status = 0x00000002 ∧ t.dstLen.toNat = out.length ∧ t.errPos = 0 ∧ t.doneIp = true ∧
    (∀ a (h : a < out.length), t.dstByte a = out[a]) ∧ (∀ a, out.length ≤ a → t.dstByte a = s.dstByte a) ∧ CommandKeeps s t

/-- The command of `s` ended in `t` with an error of the numeric kind and cause at `pos` (60_exceptions.md R213). -/
def FailedWith (s t : State) (kind cause pos : Nat) : Prop :=
  t.status = errorWord kind cause ∧ t.dstLen = 0 ∧ t.errPos.toNat = pos ∧ t.doneIp = true ∧ CommandKeeps s t

/-- Offset `o` holds something (20_memory.md R61). -/
def Mapped (p : Params) (o : Nat) : Prop :=
  o < 0x1000 ∨ (0x100000 ≤ o ∧ o < 0x100000 + p.srcCap) ∨ (0x200000 ≤ o ∧ o < 0x200000 + p.dstCap)

/-- A 32-bit write of `v` at `off`. -/
def write (off : Offset) (v : Word) : Access := { kind := .write v, off := off, width := .w32 }

/-- The registers as 70_reset_and_hazards.md R240 lists them after a reset, and the irq output. -/
def ResetValues (p : Params) (t : State) : Prop :=
  t.readRegister 0x000 = 0x48464C5A ∧ t.readRegister 0x004 = 0x00010000 ∧ t.readRegister 0x008 = BitVec.ofNat 32 p.srcCap ∧
    t.readRegister 0x00C = BitVec.ofNat 32 p.dstCap ∧ t.readRegister 0x010 = 0 ∧ t.readRegister 0x014 = 0 ∧
    t.readRegister 0x018 = 0 ∧ t.readRegister 0x01C = 0 ∧ t.readRegister 0x020 = 0 ∧ t.readRegister 0x024 = 0 ∧
    t.readRegister 0x028 = 0 ∧ t.readRegister 0x02C = 0 ∧ t.irq = false

/-- The big-endian 32-bit field of SRC at an index, as a number (30_encoding.md R101, R102). -/
def srcField (s : State) (a : Nat) : Nat :=
  (s.srcByte a).toNat * 2 ^ 24 + (s.srcByte (a + 1)).toNat * 2 ^ 16 + (s.srcByte (a + 2)).toNat * 2 ^ 8 +
    (s.srcByte (a + 3)).toNat

/-- sym of table entry `e` of the blob in SRC (30_encoding.md R102). -/
def entrySym (s : State) (e : Nat) : Nat := (s.srcByte (4 + 5 * e)).toNat

/-- count of table entry `e` of the blob in SRC (30_encoding.md R102). -/
def entryCount (s : State) (e : Nat) : Nat := srcField s (5 + 5 * e)

/-- Entry `e` passes both checks of 40_huffman.md R133. -/
def EntryOk (s : State) (e : Nat) : Prop :=
  (0 < e → entrySym s (e - 1) < entrySym s e) ∧ entryCount s e ≠ 0

/-- A frequency table as 30_encoding.md R102 has it: at least one entry, ascending symbols, every count at least 1. -/
def TableOk (f : FreqTable) : Prop :=
  f ≠ [] ∧ (f.map Prod.fst).Pairwise (· < ·) ∧ ∀ e ∈ f, e.2 ≠ 0

/-- The code of a symbol under the tree the block builds from a table (40_huffman.md R121 to R127). -/
def codeOf (f : FreqTable) (b : Byte) : List Bool := Huffman.codeAt (Huffman.codesOf (Huffman.buildTree f)) b

/-- The codes of a byte string, one after the other (40_huffman.md R129). -/
def coded (f : FreqTable) (y : List Byte) : List Bool := y.flatMap (codeOf f)

/-- The blob with table `f`, the bit string `bits` and the padding bits `pad` (30_encoding.md R100 to R104). -/
def huffmanBlob (f : FreqTable) (bits pad : List Bool) : List Byte :=
  Huffman.tableBytes f ++ BitVec.ofNat 8 pad.length :: packBits (bits ++ pad)

/-- `pad` completes `bits` to whole bytes (30_encoding.md R103, R104). -/
def Pads (bits pad : List Bool) : Prop := pad.length ≤ 7 ∧ (bits.length + pad.length) % 8 = 0

/-- Node `m` of the arena has child `x` (10_state.md R41). -/
def IsChild (node : List Node) (m x : Nat) : Prop :=
  ∃ f l r, node[m]? = some (.internal f l r) ∧ (l = some (BitVec.ofNat 9 x) ∨ r = some (BitVec.ofNat 9 x)) ∧ x < 512

/-- Index `x` is in the pool when node `n` is made from a table of `k` symbols: no earlier internal node has taken it
(40_huffman.md R122). -/
def InPool (node : List Node) (k n x : Nat) : Prop := x < n ∧ ∀ m, k ≤ m → m < n → ¬ IsChild node m x

/-- NODE[x].freq as a number. -/
def freqNumber (node : List Node) (x : Nat) : Nat := (Huffman.freqOfNode node x).toNat

/-- The key order (freq, seq) (40_huffman.md R125). -/
def KeyBefore (node : List Node) (x y : Nat) : Prop :=
  freqNumber node x < freqNumber node y ∨ (freqNumber node x = freqNumber node y ∧ x < y)

/-- The bytes from `j` on and from `i` on agree at `l` positions (41_lz77.md R162). -/
def Agree (x : List Byte) (j i l : Nat) : Prop := ∀ r, r < l → x[j + r]? = x[i + r]?

/-- Lmax(i) (41_lz77.md R161). -/
def lmax (x : List Byte) (i : Nat) : Nat := min 255 (x.length - i - 1)

/-- (off, len) is the match 41_lz77.md R160 to R163 select at position `i`: no longer match in the window, and no older one
of that length. -/
def SelectedMatch (x : List Byte) (w i off len : Nat) : Prop :=
  len ≤ lmax x i ∧ (∀ j l, i - w ≤ j → j < i → l ≤ lmax x i → Agree x j i l → l ≤ len) ∧ (len = 0 → off = 0) ∧
    (0 < len → 0 < off ∧ off ≤ i ∧ off ≤ w ∧ Agree x (i - off) i len ∧ ∀ j, i - w ≤ j → j < i - off → ¬ Agree x j i len)

/-- One LZ77 token: offset, length, literal (30_encoding.md R106). -/
abbrev Tok := Nat × Nat × Byte

/-- The bytes of tokens (30_encoding.md R106). -/
def tokBytes (toks : List Tok) : List Byte :=
  toks.flatMap fun t => [BitVec.ofNat 8 t.1, BitVec.ofNat 8 t.2.1, t.2.2]

/-- The tokens that 41_lz77.md R163 to R165 emit for `x` under window size `w` up to position `i`. -/
inductive EmittedUpTo (x : List Byte) (w : Nat) : Nat → List Tok → Prop where
  | start : EmittedUpTo x w 0 []
  | token {i : Nat} {toks : List Tok} {off len : Nat} {lit : Byte} :
      EmittedUpTo x w i toks → i < x.length → SelectedMatch x w i off len → x[i + len]? = some lit →
        EmittedUpTo x w (i + len + 1) (toks ++ [(off, len, lit)])

/-- One token of a blob given to LZD. -/
abbrev RawTok := Byte × Byte × Byte

/-- The bytes of the tokens of a blob. -/
def rawBytes (toks : List RawTok) : List Byte :=
  toks.flatMap fun t => [t.1, t.2.1, t.2.2]

/-- Tokens whose checks pass, and the output they expand to: each copied byte equals the one `off` places before it, also
where the copy overlaps itself (41_lz77.md R168). -/
inductive Expands : List RawTok → List Byte → Prop where
  | empty : Expands [] []
  | token {toks : List RawTok} {out copy : List Byte} {off len lit : Byte} :
      Expands toks out → off.toNat ≤ out.length → (off = 0 → len = 0) → copy.length = len.toNat →
        (∀ r, r < len.toNat → (out ++ copy)[out.length + r]? = (out ++ copy)[out.length - off.toNat + r]?) →
          Expands (toks ++ [(off, len, lit)]) (out ++ copy ++ [lit])

/-- The first event of the schedule is a 32-bit host write of `v` at `off`. -/
def NextIsWrite (s : State) (off : Offset) (v : Word) : Prop := s.events.head? = some (.host (write off v))

/-- The engine moves next. -/
def NextIsEngine (s : State) : Prop := s.events.head? = none ∨ s.events.head? = some .engine

/-- SRC of `u` holds the output of `t`, with its length latched (40_huffman.md R138, 41_lz77.md R171). -/
def HoldsOutputOf (u t : State) : Prop :=
  u.hidden.lenL = t.dstLen ∧ ∀ a, a < t.dstLen.toNat → u.srcByte a = t.dstByte a

end Sys2Proof.Claims

open Sys2Proof Sys2Proof.Machine Sys2Proof.Claims

/-! ### Encoding -/

/-- 30_encoding.md R95, R97; 42_control.md R190 to R199: decoding an encoded well-formed instruction gives it back, with every
operand at every value. -/
def Obligations.DecodeOfEncodeIsTheInstruction : Prop :=
  ∀ (p : Params) (i : Instr), i.wellFormed p = true → decode p (encode i) = .ok i

/-- 30_encoding.md R94, R95: the command a word selects, by its masked value, for all 2^32 words; a word that selects none is
one whose ALG is neither 1 nor 2 or whose reserved bits are not all 0. -/
def Obligations.CommandWordIsSelectedByItsFields : Prop :=
  ∀ c : Word,
    (decodeCommand c = .ok .hufc ↔ c &&& 0xFFFF00FF = 0x00000010) ∧
    (decodeCommand c = .ok .hufd ↔ c &&& 0xFFFF00FF = 0x00000011) ∧
    (∀ w, decodeCommand c = .ok (.lzc w) ↔ c &&& 0xFFFF00FF = 0x00000020 ∧ w.toNat = c.toNat / 2 ^ 8 % 2 ^ 8) ∧
    (decodeCommand c = .ok .lzd ↔ c &&& 0xFFFF00FF = 0x00000021) ∧
    (decodeCommand c = .error .invalidCommand ↔
      ((c.toNat / 2 ^ 4 % 2 ^ 4 ≠ 1 ∧ c.toNat / 2 ^ 4 % 2 ^ 4 ≠ 2) ∨ c.toNat / 2 % 2 ^ 3 ≠ 0 ∨ c.toNat / 2 ^ 16 ≠ 0)) ∧
    (∀ r, decodeCommand c = .error r → r = .invalidCommand)

/-- 95_test_vectors.md section 2.1 and 2.6: words written out from the tables decode to what they stand for. -/
def Obligations.SampleWordsDecode : Prop :=
  decodeCommand 0x00000010 = .ok .hufc ∧ decodeCommand 0x00000011 = .ok .hufd ∧ decodeCommand 0x0000FF20 = .ok (.lzc 255) ∧
    decodeCommand 0x00000320 = .ok (.lzc 3) ∧ decodeCommand 0x0000FF21 = .ok .lzd ∧
    decodeCommand 0x00000012 = .error .invalidCommand ∧ decodeCommand 0x00010010 = .error .invalidCommand ∧
    decode Config.defaultParams (.access (write 0x010 0x1)) = .ok (.start 0x1) ∧
    decode Config.defaultParams (.access (write 0x010 0x3)) = .ok (.sreset 0x3) ∧
    decode Config.defaultParams (.access (write 0x02C 0x1)) = .ok (.intack 0x1) ∧
    decode Config.defaultParams (.access { kind := .read, off := 0x200014, width := .w16 }) =
      .ok (.winAccess .read .w16 0x200014) ∧
    decode Config.defaultParams (.access { kind := .read, off := 0x110000, width := .w8 }) = .error .unmapped

/-- 30_encoding.md R97, R98: the assembler's command words; an operand outside 0 to 255 is refused. -/
def Obligations.AssemblerGivesTheCommandWords : Prop :=
  assembleCommand (tokens "HUFC".toList) = some 0x00000010 ∧ assembleCommand (tokens "hufd".toList) = some 0x00000011 ∧
    assembleCommand (tokens "LZC".toList) = some 0x0000FF20 ∧ assembleCommand (tokens "Lzc 0x3".toList) = some 0x00000320 ∧
    assembleCommand (tokens "LZD".toList) = some 0x00000021 ∧ assembleCommand (tokens "LZC 256".toList) = none

/-! ### The step -/

/-- 00_scope.md R17, 20_memory.md R71: outside reset, a host access that decodes to an instruction is run as it, with the
schedule advanced by that access and nothing else around it. -/
def Obligations.StepRunsTheHostsInstruction : Prop :=
  ∀ (s : State) (a : Access) (es : List Event) (i : Instr),
    s.events = .host a :: es → s.rst = false → decode s.params (.access a) = .ok i →
      step s = exec i { s with events := es }

/-- 42_control.md R192, 20_memory.md R70: while a command runs and outside reset, an engine turn, scheduled or at the
schedule's end, runs the instruction the latched word decodes to as one step. -/
def Obligations.StepRunsTheLatchedCommand : Prop :=
  ∀ (s : State) (i : Instr),
    NextIsEngine s → s.busy = true → s.rst = false → decode s.params (.command s.hidden.cmdL) = .ok i →
      step s = exec i { s with events := s.events.tail }

/-- 30_encoding.md R96: a running command whose latched word has a reserved algorithm or a reserved bit set ends as
UnsupportedAlgorithm, BAD_CMD, ERR_POS 0; nothing else changes, and SRC and DST take no part. -/
def Obligations.IllegalCommandEndsAsBadCmd : Prop :=
  ∀ s : State,
    NextIsEngine s → s.busy = true → s.rst = false →
    ((s.hidden.cmdL.toNat / 2 ^ 4 % 2 ^ 4 ≠ 1 ∧ s.hidden.cmdL.toNat / 2 ^ 4 % 2 ^ 4 ≠ 2) ∨
      s.hidden.cmdL.toNat / 2 % 2 ^ 3 ≠ 0 ∨ s.hidden.cmdL.toNat / 2 ^ 16 ≠ 0) →
      step s =
        .next { s with events := s.events.tail, status := 0x00000116, dstLen := 0, errPos := 0, doneIp := true }

/-- 70_reset_and_hazards.md R243, 10_state.md R45: where no command runs, or under reset, an engine turn changes nothing but
the schedule. -/
def Obligations.IdleEngineTurnChangesNothing : Prop :=
  ∀ s : State, NextIsEngine s → s.busy = false ∨ s.rst = true → step s = .next { s with events := s.events.tail }

/-- The model's own convention (log 12, 13): the step after withFetchWord runs the instruction the table word decodes to. -/
def Obligations.PlacedWordIsRunNext : Prop :=
  ∀ (s : State) (w : Nat) (i : Instr), decodeTableWord 32 w = some i →
    step (s.withFetchWord 32 w) = exec i { s.withFetchWord 32 w with events := s.events }

/-- 00_scope.md R14: no step faults and none is refused, in every state. -/
def Obligations.EveryStepAnswersANextState : Prop := ∀ s : State, SafeStep s

/-! ### The invariant and the rules of the whole machine -/

/-- 10_state.md R30 to R32, R37, R38; 60_exceptions.md R211, R212: every step keeps the invariant. -/
def Obligations.StepKeepsTheInvariant : Prop := ∀ s t : State, s.Inv → step s = .next t → t.Inv

/-- The state after reset meets the invariant. -/
def Obligations.ResetMeetsTheInvariant : Prop := State.reset.Inv

/-- 10_state.md R37, 20_memory.md R67, R68: the only step that changes SRC is a legal host write in the SRC window while no
command runs, outside reset. -/
def Obligations.OnlyAnIdleHostWriteChangesSrc : Prop :=
  ∀ s t : State, step s = .next t → t.src ≠ s.src →
    s.busy = false ∧ s.rst = false ∧
      ∃ v w off, s.events.head? = some (.host { kind := .write v, off := off, width := w }) ∧ 0x100000 ≤ off.toNat ∧
        off.toNat % widthBytes w = 0 ∧ off.toNat + widthBytes w ≤ 0x100000 + s.params.srcCap

/-- 10_state.md R36: STATUS and DONE_IP change only by the listed events, each with the values listed for it. -/
def Obligations.FlagsChangeOnlyByTheListedEvents : Prop :=
  ∀ s t : State, step s = .next t →
    (t.status = s.status ∧ t.doneIp = s.doneIp) ∨
    (t.status = 0 ∧ t.doneIp = false ∧
      (s.events.head? = some (.rst true) ∨ ∃ v, NextIsWrite s 0x010 v ∧ v.getLsbD 1 = true)) ∨
    (t.status = 0x00000001 ∧ t.doneIp = s.doneIp ∧ s.busy = false ∧
      ∃ v, NextIsWrite s 0x010 v ∧ v.getLsbD 1 = false ∧ v.getLsbD 0 = true) ∨
    (t.status = 0x00000002 ∧ t.doneIp = true ∧ s.busy = true ∧ NextIsEngine s) ∨
    ((∃ kind cause, 1 ≤ kind ∧ kind ≤ 4 ∧ 1 ≤ cause ∧ cause ≤ 0x22 ∧ t.status = errorWord kind cause) ∧ t.doneIp = true ∧
      s.busy = true ∧ NextIsEngine s) ∨
    (t.status = s.status ∧ t.doneIp = false ∧ ∃ v, NextIsWrite s 0x02C v ∧ v.getLsbD 0 = true)

/-- 10_state.md R39, 20_memory.md R68, R76, 70_reset_and_hazards.md R250: while a command stays running, its latched word, its
latched length, its input bytes and the parameters stay as they are. -/
def Obligations.RunningCommandKeepsItsInputs : Prop :=
  ∀ s t : State, step s = .next t → s.busy = true → t.busy = true →
    t.hidden.cmdL = s.hidden.cmdL ∧ t.hidden.lenL = s.hidden.lenL ∧ (∀ a, t.srcByte a = s.srcByte a) ∧ t.params = s.params

/-- 42_control.md R193, 70_reset_and_hazards.md R252: a running command that no reset abandons ends, at the latest with the
step after the last event of the schedule (the schedule is the model's, log 1). -/
def Obligations.EveryRunningCommandEnds : Prop :=
  ∀ s : State, s.busy = true → s.rst = false →
    (∀ e ∈ s.events, e ≠ .rst true ∧ ∀ a, e = .host a → ∀ v, decode s.params (.access a) ≠ .ok (.sreset v)) →
      ∃ k, k ≤ s.events.length + 1 ∧ ∃ t : State, Host.Core.run Sys2Proof.core k s = .next t ∧ t.done = true ∧ t.busy = false

/-! ### Reset -/

/-- 70_reset_and_hazards.md R240: the reset input and a soft reset leave every register and irq at the listed value, in every
state, and abandon a running command: an engine turn then changes nothing. -/
def Obligations.ResetSetsTheRegisters : Prop :=
  (∀ s : State, ∃ t, takeEvent (.rst true) s = .next t ∧ ResetValues s.params t ∧ engineTurn t = .next t) ∧
    (∀ (s : State) (v : Word), v.getLsbD 1 = true →
      ∃ t, exec (.sreset v) s = .next t ∧ ResetValues s.params t ∧ engineTurn t = .next t)

/-- 70_reset_and_hazards.md R241: reset changes no byte of SRC, and none of DST where no command ran. -/
def Obligations.ResetKeepsTheMemories : Prop :=
  (∀ (s t : State) (b : Bool), takeEvent (.rst b) s = .next t →
    (∀ a, t.srcByte a = s.srcByte a) ∧ (s.busy = false ∨ b = false → DstKept s t)) ∧
    (∀ (s t : State) (v : Word), exec (.sreset v) s = .next t →
      (∀ a, t.srcByte a = s.srcByte a) ∧ (s.busy = false → DstKept s t))

/-- 42_control.md R194: SRESET completes in every state: the registers, the response, and the values it leaves unspecified
(the hidden state always, DST when a command was running) are all it writes. -/
def Obligations.SoftResetCompletes : Prop :=
  ∀ (s : State) (v : Word), v.getLsbD 1 = true →
    ∃ (h : Hidden) (d : Memory) (m n : Nat),
      exec (.sreset v) s =
        .next { s with
          cmd := 0, srcLen := 0, dstLen := 0, status := 0, errPos := 0, doneIe := false, doneIp := false, hidden := h,
          dst := d, dstDraw := m, draws := n, resp := .ok } ∧
      (s.busy = false → d = s.dst ∧ m = s.dstDraw)

/-- 10_state.md R45: while rst is asserted every host access gets an error response and changes nothing, and the engine does
not run; asserting it resets the registers. -/
def Obligations.AssertedResetInputBlocksTheBlock : Prop :=
  ∀ s : State,
    (s.rst = true → (∀ a, hostTurn a s = .next { s with resp := .error }) ∧ engineTurn s = .next s) ∧
      ∃ t, takeEvent (.rst true) s = .next t ∧ t.rst = true ∧ ResetValues s.params t

/-! ### Starting a command and the registers -/

/-- 42_control.md R190, R191: what a 32-bit write of any value to CTRL does outside reset, bits 31 to 2 ignored. -/
def Obligations.CtrlWriteStartsOrResetsOrDoesNothing : Prop :=
  ∀ (s : State) (v : Word), s.rst = false →
    (v.getLsbD 1 = true → hostTurn (write 0x010 v) s = .next (s.resetBlock.respond .ok)) ∧
    (v.getLsbD 1 = false → v.getLsbD 0 = true → s.busy = false →
      hostTurn (write 0x010 v) s = .next (s.accept.respond .ok)) ∧
    (v.getLsbD 1 = false → v.getLsbD 0 = true → s.busy = true → hostTurn (write 0x010 v) s = .next { s with resp := .ok }) ∧
    (v.getLsbD 1 = false → v.getLsbD 0 = false → hostTurn (write 0x010 v) s = .next { s with resp := .ok })

/-- 42_control.md R192: START while no command runs latches CMD and SRC_LEN, sets STATUS to BUSY alone and clears DST_LEN and
ERR_POS; DONE_IP and everything else is unchanged. -/
def Obligations.StartIsAcceptedWhenIdle : Prop :=
  ∀ (s : State) (v : Word), v &&& 3 = 1 → s.busy = false →
    exec (.start v) s =
      .next { s with
        hidden := { s.hidden with cmdL := s.cmd, lenL := s.srcLen }, status := 0x00000001, dstLen := 0, errPos := 0,
        resp := .ok }

/-- 42_control.md R191: a START while a command runs changes no register, latch or memory and gets a normal response. -/
def Obligations.StartIsDroppedWhenBusy : Prop :=
  ∀ (s : State) (v : Word), s.busy = true → exec (.start v) s = .next { s with resp := .ok }

/-- 42_control.md R192: a command whose latched length exceeds SRC_CAP ends as SRC_LEN_RANGE under its direction's kind, with
ERR_POS 0, and changes nothing else, DST included. -/
def Obligations.TooLongInputEndsAsSrcLenRange : Prop :=
  ∀ (s : State) (w : Byte), s.params.srcCap < s.hidden.lenL.toNat →
    exec .hufc s = .next { s with status := 0x00000236, dstLen := 0, errPos := 0, doneIp := true } ∧
    exec (.lzc w) s = .next { s with status := 0x00000236, dstLen := 0, errPos := 0, doneIp := true } ∧
    exec .hufd s = .next { s with status := 0x00000246, dstLen := 0, errPos := 0, doneIp := true } ∧
    exec .lzd s = .next { s with status := 0x00000246, dstLen := 0, errPos := 0, doneIp := true }

/-- 42_control.md R195: a write to INT_STAT with bit 0 set clears DONE_IP and irq and nothing else, STATUS and a running
command included, whose completion sets DONE_IP again; with bit 0 clear it does nothing. -/
def Obligations.InterruptAcknowledge : Prop :=
  ∀ (s : State) (v : Word),
    (v.getLsbD 0 = true →
      exec (.intack v) s = .next { s with doneIp := false, resp := .ok } ∧
        ({ s with doneIp := false, resp := .ok } : State).irq = false ∧
        ∀ i, isCommand i = true → ∃ t, exec i { s with doneIp := false, resp := .ok } = .next t ∧ t.doneIp = true) ∧
    (v.getLsbD 0 = false → s.rst = false → hostTurn (write 0x02C v) s = .next { s with resp := .ok })

/-- 42_control.md R196: a write to INT_EN sets DONE_IE to bit 0 of the data, takes effect on irq at once, and changes nothing
else, busy or not. -/
def Obligations.InterruptEnableWrite : Prop :=
  ∀ (s : State) (v : Word),
    exec (.wrIntEn v) s = .next { s with doneIe := v.getLsbD 0, resp := .ok } ∧
      ({ s with doneIe := v.getLsbD 0, resp := .ok } : State).irq = (s.doneIp && v.getLsbD 0)

/-- 42_control.md R197: a write to CMD or SRC_LEN stores all 32 bits and nothing else, busy or not; a later read returns
them, and the next accepted START latches them. -/
def Obligations.CmdAndSrcLenWrites : Prop :=
  ∀ (s : State) (v : Word),
    (∃ t, exec (.wrCmdSrcLen .cmd v) s = .next t ∧ t = { s with cmd := v, resp := .ok } ∧
      exec (.rdReg 0x014) t = .next { t with resp := .data v } ∧
      (s.busy = false → ∃ u, exec (.start 1) t = .next u ∧ u.hidden.cmdL = v ∧ u.hidden.lenL = s.srcLen)) ∧
    (∃ t, exec (.wrCmdSrcLen .srcLen v) s = .next t ∧ t = { s with srcLen := v, resp := .ok } ∧
      exec (.rdReg 0x018) t = .next { t with resp := .data v } ∧
      (s.busy = false → ∃ u, exec (.start 1) t = .next u ∧ u.hidden.lenL = v ∧ u.hidden.cmdL = s.cmd))

/-- 42_control.md R198, 10_state.md R22 to R35: a register read returns the register's value and changes nothing; CTRL and
the reserved words read 0. -/
def Obligations.RegisterReads : Prop :=
  ∀ s : State,
    (∀ r ∈ [((0x000 : Offset), (0x48464C5A : Word)), (0x004, 0x00010000), (0x008, BitVec.ofNat 32 s.params.srcCap),
        (0x00C, BitVec.ofNat 32 s.params.dstCap), (0x010, 0), (0x014, s.cmd), (0x018, s.srcLen), (0x01C, s.dstLen),
        (0x020, s.status), (0x024, s.errPos), (0x028, if s.doneIe then 1 else 0), (0x02C, if s.doneIp then 1 else 0)],
      exec (.rdReg r.1) s = .next { s with resp := .data r.2 }) ∧
    (∀ off : Offset, 0x030 ≤ off.toNat → off.toNat ≤ 0xFFC → off.toNat % 4 = 0 →
      exec (.rdReg off) s = .next { s with resp := .data 0 })

/-- 10_state.md R35, R22, 42_control.md R198: outside reset, a 32-bit write to a read-only register or a reserved word changes
nothing and gets a normal response; a 32-bit read of a reserved word answers 0. -/
def Obligations.ReadOnlyAndReservedWritesAreIgnored : Prop :=
  ∀ (s : State) (v : Word), s.rst = false →
    (∀ off ∈ [(0x000 : Offset), 0x004, 0x008, 0x00C, 0x01C, 0x020, 0x024],
      hostTurn (write off v) s = .next { s with resp := .ok }) ∧
    (∀ off : Offset, 0x030 ≤ off.toNat → off.toNat ≤ 0xFFC → off.toNat % 4 = 0 →
      hostTurn (write off v) s = .next { s with resp := .ok } ∧
        hostTurn { kind := .read, off := off, width := .w32 } s = .next { s with resp := .data 0 })

/-! ### The windows -/

/-- 42_control.md R199, 20_memory.md R65: an aligned read inside a window while no command runs answers the bytes of the
buffer, least significant first, and changes nothing else. -/
def Obligations.WindowReadIsLittleEndian : Prop :=
  ∀ (s : State) (w : Width) (off : Offset), s.params.legal → s.busy = false → off.toNat % widthBytes w = 0 →
    (0x100000 ≤ off.toNat → off.toNat + widthBytes w ≤ 0x100000 + s.params.srcCap →
      ∃ v : Word, exec (.winAccess .read w off) s = .next { s with resp := .data v } ∧
        v.toNat < 2 ^ (8 * widthBytes w) ∧
        ∀ k, k < widthBytes w → v.extractLsb' (8 * k) 8 = s.srcByte (off.toNat - 0x100000 + k)) ∧
    (0x200000 ≤ off.toNat → off.toNat + widthBytes w ≤ 0x200000 + s.params.dstCap →
      ∃ v : Word, exec (.winAccess .read w off) s = .next { s with resp := .data v } ∧
        v.toNat < 2 ^ (8 * widthBytes w) ∧
        ∀ k, k < widthBytes w → v.extractLsb' (8 * k) 8 = s.dstByte (off.toNat - 0x200000 + k))

/-- 42_control.md R199, 20_memory.md R65: an aligned write inside a window while no command runs stores the data's low bytes,
least significant first, and changes no other byte and no register. -/
def Obligations.WindowWriteIsLittleEndian : Prop :=
  ∀ (s : State) (w : Width) (off : Offset) (v : Word), s.params.legal → s.busy = false → off.toNat % widthBytes w = 0 →
    (0x100000 ≤ off.toNat → off.toNat + widthBytes w ≤ 0x100000 + s.params.srcCap →
      ∃ t, exec (.winAccess (.write v) w off) s = .next t ∧ t = { s with src := t.src, resp := .ok } ∧
        (∀ k, k < widthBytes w → t.srcByte (off.toNat - 0x100000 + k) = v.extractLsb' (8 * k) 8) ∧
        (∀ a, a < off.toNat - 0x100000 ∨ off.toNat - 0x100000 + widthBytes w ≤ a → t.srcByte a = s.srcByte a)) ∧
    (0x200000 ≤ off.toNat → off.toNat + widthBytes w ≤ 0x200000 + s.params.dstCap →
      ∃ t, exec (.winAccess (.write v) w off) s = .next t ∧ t = { s with dst := t.dst, resp := .ok } ∧
        (∀ k, k < widthBytes w → t.dstByte (off.toNat - 0x200000 + k) = v.extractLsb' (8 * k) 8) ∧
        (∀ a, a < off.toNat - 0x200000 ∨ off.toNat - 0x200000 + widthBytes w ≤ a → t.dstByte a = s.dstByte a))

/-- 20_memory.md R68: while a command runs, a legal window read answers some value with a normal response and changes nothing
else but the model's draw counter (log 6, 9), and a legal window write is ignored with a normal response. -/
def Obligations.WindowAccessWhileBusy : Prop :=
  ∀ (s : State) (w : Width) (off : Offset), s.busy = true → (windowTarget s.params off w).isSome = true →
    (∃ v : Word, exec (.winAccess .read w off) s = .next { s with resp := .data v, draws := s.draws + 1 }) ∧
    (∀ v, exec (.winAccess (.write v) w off) s = .next { s with resp := .ok })

/-- 20_memory.md R62: an access of which any byte is at an unmapped offset gets an error response and changes nothing. -/
def Obligations.UnmappedAccessGetsAnErrorResponse : Prop :=
  ∀ (s : State) (a : Access), (∃ k, k < widthBytes a.width ∧ ¬ Mapped s.params (a.off.toNat + k)) →
    hostTurn a s = .next { s with resp := .error }

/-- 20_memory.md R63, R64: an access to the register page that is not 32 bits wide and aligned, and a misaligned access
elsewhere, gets an error response and changes nothing. -/
def Obligations.MisalignedAccessGetsAnErrorResponse : Prop :=
  ∀ (s : State) (a : Access),
    (a.off.toNat < 0x1000 → a.width ≠ .w32 ∨ a.off.toNat % 4 ≠ 0 → hostTurn a s = .next { s with resp := .error }) ∧
    (0x1000 ≤ a.off.toNat → a.off.toNat % widthBytes a.width ≠ 0 → hostTurn a s = .next { s with resp := .error })

/-- 20_memory.md R69: a host read of any kind changes nothing but the response (and the model's draw counter). -/
def Obligations.ReadsHaveNoSideEffect : Prop :=
  ∀ (s t : State) (a : Access), a.kind = .read → hostTurn a s = .next t →
    t = { s with resp := t.resp, draws := t.draws }

/-! ### Every command -/

/-- 10_state.md R36, 20_memory.md R67, R79, 60_exceptions.md R213: what every command leaves unchanged, and DST after its
completion: from DST_LEN on after a success, and everywhere after SRC_LEN_RANGE and HUFC's OUT_OVERFLOW. Every command ends
idle and done with DONE_IP set. -/
def Obligations.CommandFrame : Prop :=
  ∀ (s : State) (i : Instr), isCommand i = true → s.params.legal →
    ∃ t, exec i s = .next t ∧ CommandKeeps s t ∧ t.busy = false ∧ t.done = true ∧ t.doneIp = true ∧
      (t.status = 0x00000002 → t.err = false ∧ t.errPos = 0 ∧ ∀ a, t.dstLen.toNat ≤ a → t.dstByte a = s.dstByte a) ∧
      (t.status ≠ 0x00000002 → t.err = true ∧ t.dstLen = 0) ∧
      (t.status = 0x00000236 ∨ t.status = 0x00000246 ∨ (i = .hufc ∧ t.status = 0x00000336) → DstKept s t)

/-- 00_scope.md R18: two runs of one command on equal inputs give equal completions: the completion depends on the latched
length, the SRC bytes below it and DST_CAP alone, once both lengths pass or both fail the check against SRC_CAP. -/
def Obligations.CommandDependsOnItsInputAlone : Prop :=
  ∀ (s s' t t' : State) (i : Instr), isCommand i = true → (Fits s ↔ Fits s') → s.hidden.lenL = s'.hidden.lenL →
    s.params.dstCap = s'.params.dstCap → (∀ a, a < s.hidden.lenL.toNat → s.srcByte a = s'.srcByte a) →
    exec i s = .next t → exec i s' = .next t' →
      t.status = t'.status ∧ t.dstLen = t'.dstLen ∧ t.errPos = t'.errPos ∧
        (t.status = 0x00000002 → ∀ a, a < t.dstLen.toNat → t.dstByte a = t'.dstByte a)

/-- 40_huffman.md R132, R136, 41_lz77.md R166, R169, corner cases: an empty input completes with an empty output. -/
def Obligations.EmptyInputGivesEmptyOutput : Prop :=
  ∀ (s : State) (i : Instr), isCommand i = true → s.hidden.lenL = 0 → ∃ t, exec i s = .next t ∧ CompletedWith s t []

/-! ### Huffman -/

/-- 40_huffman.md R120: after HUFC on a non-empty input, FREQ[b] is the number of times b occurs in it, for every b, and the
counts sum to the input length. -/
def Obligations.HufcCountsTheInput : Prop :=
  ∀ s : State, Fits s → s.hidden.lenL ≠ 0 →
    ∃ t, exec .hufc s = .next t ∧
      (∀ b, (Huffman.freqAt t.hidden.freq b).toNat = s.input.count b) ∧
      (t.hidden.freq.map fun e => e.2.toNat).sum = s.hidden.lenL.toNat ∧
      TableOk t.hidden.freq

/-- 40_huffman.md R121, R122, R126: the tree of k symbols, two or more. Nodes 0 to k - 1 are the leaves in ascending order;
there are 2k - 1 nodes and the last is the root; each internal node's left and right children are the first and the second of
the pool by (freq, index), and its freq is their sum, without overflow. -/
def Obligations.TreeMergesTheTwoLeastNodes : Prop :=
  ∀ f : FreqTable, TableOk f → 2 ≤ f.length →
    (Huffman.buildTree f).node.length = 2 * f.length - 1 ∧ (Huffman.buildTree f).root.toNat = 2 * f.length - 2 ∧
    (∀ e (h : e < f.length), (Huffman.buildTree f).node[e]? = some (.leaf f[e].1 (f[e].2.setWidth 40))) ∧
    (∀ n, f.length ≤ n → n < 2 * f.length - 1 →
      ∃ a b g, (Huffman.buildTree f).node[n]? = some (.internal g (some (BitVec.ofNat 9 a)) (some (BitVec.ofNat 9 b))) ∧
        g.toNat = freqNumber (Huffman.buildTree f).node a + freqNumber (Huffman.buildTree f).node b ∧
        InPool (Huffman.buildTree f).node f.length n a ∧ InPool (Huffman.buildTree f).node f.length n b ∧
        KeyBefore (Huffman.buildTree f).node a b ∧
        ∀ x, InPool (Huffman.buildTree f).node f.length n x → x ≠ a → x ≠ b → KeyBefore (Huffman.buildTree f).node b x)

/-- 40_huffman.md R123: the tree and the code of a table with one symbol. -/
def Obligations.SingleSymbolTree : Prop :=
  ∀ (b : Byte) (c : Word),
    Huffman.buildTree [(b, c)] =
      { node := [.leaf b (c.setWidth 40), .internal (c.setWidth 40) (some 0) none], root := 1 } ∧
    Huffman.codesOf (Huffman.buildTree [(b, c)]) = [(b, [false])]

/-- 40_huffman.md R128: (a) one symbol has code [0]; (b) with k symbols, two or more, each code has 1 to k - 1 bits, at most
255; (c) no code is a prefix of another; (d) absent symbols have the empty code and do not occur in HUFC's input; (e) with two
symbols or more every long enough bit string starts with some code. -/
def Obligations.CodesArePrefixFreeAndComplete : Prop :=
  (∀ f : FreqTable, TableOk f →
    (f.length = 1 → ∀ e ∈ f, codeOf f e.1 = [false]) ∧
    (2 ≤ f.length → ∀ e ∈ f, 1 ≤ (codeOf f e.1).length ∧ (codeOf f e.1).length ≤ f.length - 1 ∧ (codeOf f e.1).length ≤ 255) ∧
    (∀ e ∈ f, ∀ e' ∈ f, e.1 ≠ e'.1 → ¬ (codeOf f e.1 <+: codeOf f e'.1)) ∧
    (∀ b, (∀ e ∈ f, e.1 ≠ b) → codeOf f b = []) ∧
    (2 ≤ f.length → ∀ bits : List Bool, 255 ≤ bits.length → ∃ e ∈ f, codeOf f e.1 <+: bits)) ∧
  (∀ (x : List Byte) (b : Byte), x.length < 2 ^ 32 → (∀ e ∈ Huffman.freqOf x, e.1 ≠ b) → b ∉ x)

/-- 30_encoding.md R100 to R104, 40_huffman.md R129 to R131: the layout of the blob HUFC makes from a non-empty input: 5k, the
k entries, the padding count 8P - B and the P packed bytes, bit m of the bit string at bit 7 - m mod 8 of packed byte m / 8,
padding 0; B is the sum of count times code length. -/
def Obligations.HufcBlobLayout : Prop :=
  ∀ (h : Hidden) (x : List Byte), x ≠ [] → x.length < 2 ^ 32 →
    let f := Huffman.freqOf x
    let blob := Huffman.encoderBlob (Huffman.encoderTables h x) x
    let nbits := (f.map fun e => e.2.toNat * (codeOf f e.1).length).sum
    let packed := (nbits + 7) / 8
    (coded f x).length = nbits ∧ blob.length = 4 + 5 * f.length + 1 + packed ∧
    (be32At blob 0).toNat = 5 * f.length ∧
    (∀ e (he : e < f.length), byteAt blob (4 + 5 * e) = f[e].1 ∧ be32At blob (5 + 5 * e) = f[e].2) ∧
    (byteAt blob (4 + 5 * f.length)).toNat = 8 * packed - nbits ∧
    (∀ m, m < 8 * packed →
      (byteAt blob (5 + 5 * f.length + m / 8)).getLsbD (7 - m % 8) = (coded f x).getD m false)

/-- 40_huffman.md R132: HUFC on a non-empty input completes with its blob where it fits in DST, and else ends as
OUT_OVERFLOW with ERR_POS 0 and DST unchanged. -/
def Obligations.HufcWritesItsBlobOrOverflows : Prop :=
  ∀ s : State, s.params.legal → Fits s → s.hidden.lenL ≠ 0 →
    let blob := Huffman.encoderBlob (Huffman.encoderTables s.hidden s.input) s.input
    (blob.length ≤ s.params.dstCap → ∃ t, exec .hufc s = .next t ∧ CompletedWith s t blob) ∧
    (s.params.dstCap < blob.length → ∃ t, exec .hufc s = .next t ∧ FailedWith s t 3 0x03 0 ∧ DstKept s t)

/-- 40_huffman.md R132, corner cases: HUFC of n bytes of one value b. -/
def Obligations.HufcOfOneRepeatedByte : Prop :=
  ∀ (s : State) (b : Byte), s.params.legal → Fits s → s.hidden.lenL ≠ 0 →
    (∀ a, a < s.hidden.lenL.toNat → s.srcByte a = b) → 10 + (s.hidden.lenL.toNat + 7) / 8 ≤ s.params.dstCap →
      ∃ t, exec .hufc s = .next t ∧
        CompletedWith s t
          ([0, 0, 0, 5, b] ++ bytesBE32 s.hidden.lenL ++
            BitVec.ofNat 8 (8 * ((s.hidden.lenL.toNat + 7) / 8) - s.hidden.lenL.toNat) ::
              List.replicate ((s.hidden.lenL.toNat + 7) / 8) 0)

/-- 40_huffman.md R133, 60_exceptions.md R216: the header checks of HUFD, in their order. -/
def Obligations.HufdHeaderChecks : Prop :=
  ∀ s : State, Fits s →
    (1 ≤ s.hidden.lenL.toNat → s.hidden.lenL.toNat ≤ 3 → ∃ t, exec .hufd s = .next t ∧ FailedWith s t 2 0x10 0) ∧
    (4 ≤ s.hidden.lenL.toNat →
      (s.hidden.lenL.toNat - 4 < srcField s 0 → ∃ t, exec .hufd s = .next t ∧ FailedWith s t 2 0x11 0) ∧
      (srcField s 0 = s.hidden.lenL.toNat - 4 →
        ∃ t, exec .hufd s = .next t ∧ FailedWith s t 2 0x12 s.hidden.lenL.toNat) ∧
      (srcField s 0 < s.hidden.lenL.toNat - 4 → srcField s 0 % 5 ≠ 0 →
        ∃ t, exec .hufd s = .next t ∧ FailedWith s t 2 0x13 0))

/-- 40_huffman.md R133, 60_exceptions.md R216: the first table entry that fails decides, its order before its count. -/
def Obligations.HufdTableChecks : Prop :=
  ∀ (s : State) (e : Nat), Fits s → 4 ≤ s.hidden.lenL.toNat → srcField s 0 < s.hidden.lenL.toNat - 4 →
    srcField s 0 % 5 = 0 → e < srcField s 0 / 5 → (∀ e', e' < e → EntryOk s e') →
      (0 < e → entrySym s e ≤ entrySym s (e - 1) → ∃ t, exec .hufd s = .next t ∧ FailedWith s t 2 0x14 (4 + 5 * e)) ∧
      ((0 < e → entrySym s (e - 1) < entrySym s e) → entryCount s e = 0 →
        ∃ t, exec .hufd s = .next t ∧ FailedWith s t 2 0x15 (4 + 5 * e))

/-- 40_huffman.md R133, R134: with a table that passes, the padding check, then the empty table. -/
def Obligations.HufdPaddingAndEmptyTableChecks : Prop :=
  ∀ s : State, Fits s → 4 ≤ s.hidden.lenL.toNat → srcField s 0 < s.hidden.lenL.toNat - 4 → srcField s 0 % 5 = 0 →
    (∀ e, e < srcField s 0 / 5 → EntryOk s e) →
      let p := (s.srcByte (4 + srcField s 0)).toNat
      let packed := s.hidden.lenL.toNat - 5 - srcField s 0
      (7 < p ∨ (packed = 0 ∧ p ≠ 0) → ∃ t, exec .hufd s = .next t ∧ FailedWith s t 2 0x16 (4 + srcField s 0)) ∧
      (p ≤ 7 → srcField s 0 = 0 → 0 < packed → ∃ t, exec .hufd s = .next t ∧ FailedWith s t 2 0x17 5) ∧
      (p = 0 → srcField s 0 = 0 → packed = 0 → ∃ t, exec .hufd s = .next t ∧ CompletedWith s t [])

/-- 40_huffman.md R135, R136: HUFD of a blob with any legal table and the codes of any string of its symbols, whatever the
padding bits and whatever the counts say of the number of codes, completes with that string. -/
def Obligations.HufdDecodesCodedBits : Prop :=
  ∀ (s : State) (f : FreqTable) (y : List Byte) (pad : List Bool), s.params.legal → Fits s → TableOk f →
    (∀ b ∈ y, ∃ e ∈ f, e.1 = b) → Pads (coded f y) pad → s.input = huffmanBlob f (coded f y) pad →
    y.length ≤ s.params.dstCap →
      ∃ t, exec .hufd s = .next t ∧ CompletedWith s t y

/-- 40_huffman.md R135: the walk's failures, after the codes of a string y: a bit 1 under a one-symbol table is HUF_BAD_CODE;
bits that end inside a code are HUF_TRUNCATED; a symbol past DST_CAP is OUT_OVERFLOW. -/
def Obligations.HufdWalkFailures : Prop :=
  ∀ (s : State) (f : FreqTable) (y : List Byte) (bits pad : List Bool), s.params.legal → Fits s → TableOk f →
    (∀ b ∈ y, ∃ e ∈ f, e.1 = b) → Pads bits pad → s.input = huffmanBlob f bits pad → y.length ≤ s.params.dstCap →
      (f.length = 1 → coded f y ++ [true] <+: bits →
        ∃ t, exec .hufd s = .next t ∧ FailedWith s t 2 0x18 (10 + y.length / 8)) ∧
      ((∃ part, part ≠ [] ∧ bits = coded f y ++ part ∧ ∃ e ∈ f, part <+: codeOf f e.1 ∧ part ≠ codeOf f e.1) →
        ∃ t, exec .hufd s = .next t ∧ FailedWith s t 2 0x19 s.hidden.lenL.toNat) ∧
      (∀ e ∈ f, y.length = s.params.dstCap → coded f (y ++ [e.1]) <+: bits →
        ∃ t, exec .hufd s = .next t ∧
          FailedWith s t 4 0x03 (5 + 5 * f.length + ((coded f (y ++ [e.1])).length - 1) / 8))

/-- 40_huffman.md R138: HUFD of a blob HUFC completed with gives the input back. -/
def Obligations.HuffmanRoundTrip : Prop :=
  ∀ s t u : State, s.params.legal → u.params.legal → exec .hufc s = .next t → t.status = 0x00000002 →
    HoldsOutputOf u t → t.dstLen.toNat ≤ u.params.srcCap → s.hidden.lenL.toNat ≤ u.params.dstCap →
      ∃ v, exec .hufd u = .next v ∧ CompletedWith u v s.input

/-! ### LZ77 -/

/-- 41_lz77.md R160 to R166: LZC emits one token for each selected match until the input is covered, at most one a byte, and
completes with them where they fit in DST. -/
def Obligations.LzcEmitsTheSelectedMatches : Prop :=
  ∀ (s : State) (w : Byte), s.params.legal → Fits s →
    ∃ toks, EmittedUpTo s.input w.toNat s.hidden.lenL.toNat toks ∧ toks.length ≤ s.hidden.lenL.toNat ∧
      (3 * toks.length ≤ s.params.dstCap → ∃ t, exec (.lzc w) s = .next t ∧ CompletedWith s t (tokBytes toks))

/-- 41_lz77.md R166: LZC ends as OUT_OVERFLOW at the input position of the first token that does not fit. -/
def Obligations.LzcOverflowsAtTheTokenThatDoesNotFit : Prop :=
  ∀ (s : State) (w : Byte) (i : Nat) (toks : List Tok), Fits s → EmittedUpTo s.input w.toNat i toks →
    i < s.hidden.lenL.toNat → 3 * toks.length ≤ s.params.dstCap → s.params.dstCap < 3 * toks.length + 3 →
      ∃ t, exec (.lzc w) s = .next t ∧ FailedWith s t 3 0x03 i

/-- 41_lz77.md R170: every token of a blob LZC completed with has offset and length 0, or an offset of 1 to min(W, 255) and a
length of 1 to 255; the blob is whole tokens. -/
def Obligations.LzcTokenRanges : Prop :=
  ∀ (s t : State) (w : Byte), s.params.legal → exec (.lzc w) s = .next t → t.status = 0x00000002 →
    t.dstLen.toNat % 3 = 0 ∧
    ∀ q, 3 * q < t.dstLen.toNat →
      (t.dstByte (3 * q) = 0 ∧ t.dstByte (3 * q + 1) = 0) ∨
      (1 ≤ (t.dstByte (3 * q)).toNat ∧ (t.dstByte (3 * q)).toNat ≤ min w.toNat 255 ∧
        1 ≤ (t.dstByte (3 * q + 1)).toNat ∧ (t.dstByte (3 * q + 1)).toNat ≤ 255)

/-- 41_lz77.md R167: a blob whose length is not a multiple of 3 fails before any token, at its incomplete token. -/
def Obligations.LzdLengthCheck : Prop :=
  ∀ s : State, Fits s → s.hidden.lenL.toNat % 3 ≠ 0 →
    ∃ t, exec .lzd s = .next t ∧ FailedWith s t 2 0x20 (s.hidden.lenL.toNat - s.hidden.lenL.toNat % 3)

/-- 41_lz77.md R168, R169: LZD of tokens whose checks pass completes with what they expand to. -/
def Obligations.LzdExpandsItsTokens : Prop :=
  ∀ (s : State) (toks : List RawTok) (out : List Byte), s.params.legal → Fits s → s.input = rawBytes toks →
    Expands toks out → out.length ≤ s.params.dstCap →
      ∃ t, exec .lzd s = .next t ∧ CompletedWith s t out

/-- 41_lz77.md R168, 60_exceptions.md R216: after tokens whose checks pass, the next token's first failing check, in order. -/
def Obligations.LzdTokenChecks : Prop :=
  ∀ (s : State) (toks : List RawTok) (out : List Byte) (off len lit : Byte) (rest : List RawTok), Fits s →
    s.input = rawBytes (toks ++ (off, len, lit) :: rest) → Expands toks out → out.length ≤ s.params.dstCap →
      (out.length < off.toNat → ∃ t, exec .lzd s = .next t ∧ FailedWith s t 2 0x21 (3 * toks.length)) ∧
      (off = 0 → 0 < len.toNat → ∃ t, exec .lzd s = .next t ∧ FailedWith s t 2 0x22 (3 * toks.length)) ∧
      (off.toNat ≤ out.length → (off = 0 → len = 0) → s.params.dstCap < out.length + len.toNat + 1 →
        ∃ t, exec .lzd s = .next t ∧ FailedWith s t 4 0x03 (3 * toks.length))

/-- 41_lz77.md R171: LZD of a blob LZC completed with gives the input back. -/
def Obligations.Lz77RoundTrip : Prop :=
  ∀ (s t u : State) (w : Byte), s.params.legal → u.params.legal → exec (.lzc w) s = .next t → t.status = 0x00000002 →
    HoldsOutputOf u t → t.dstLen.toNat ≤ u.params.srcCap → s.hidden.lenL.toNat ≤ u.params.dstCap →
      ∃ v, exec .lzd u = .next v ∧ CompletedWith u v s.input
end

