-- ==== Sys2Proof/Laws/Map.lean ====
section
/-!
SUPPORT. The block-space map read backwards (20_memory.md R61): what an access's region says of its offset.
-/

namespace Sys2Proof.Machine

theorem regionOf_registers {p : Params} {off n : Nat} (h : regionOf p off n = .registers) : off + n ≤ 0x1000 := by
  unfold regionOf at h
  split at h
  · assumption
  · split at h
    · cases h
    · split at h <;> cases h

theorem regionOf_src {p : Params} {off n a : Nat} (h : regionOf p off n = .src a) :
    0x100000 ≤ off ∧ off + n ≤ 0x100000 + p.srcCap ∧ a = off - 0x100000 := by
  unfold regionOf at h
  split at h
  · cases h
  · split at h
    · rename_i hs
      exact ⟨hs.1, hs.2, (Region.src.inj h).symm⟩
    · split at h <;> cases h

theorem regionOf_dst {p : Params} {off n a : Nat} (h : regionOf p off n = .dst a) :
    0x200000 ≤ off ∧ off + n ≤ 0x200000 + p.dstCap ∧ a = off - 0x200000 := by
  unfold regionOf at h
  split at h
  · cases h
  · split at h
    · cases h
    · split at h
      · rename_i hd
        exact ⟨hd.1, hd.2, (Region.dst.inj h).symm⟩
      · cases h

/-- The windows' targets: aligned, wholly inside one window (20_memory.md R61, R64). -/
theorem windowTarget_eq_some {p : Params} {off : Offset} {w : Width} {t : WindowTarget} (h : windowTarget p off w = some t) :
    off.toNat % widthBytes w = 0 ∧
      ((0x100000 ≤ off.toNat ∧ off.toNat + widthBytes w ≤ 0x100000 + p.srcCap ∧ t = .src (off.toNat - 0x100000)) ∨
        (0x200000 ≤ off.toNat ∧ off.toNat + widthBytes w ≤ 0x200000 + p.dstCap ∧ t = .dst (off.toNat - 0x200000))) := by
  unfold windowTarget at h
  split at h
  · rename_i ha
    refine ⟨by simpa [aligned] using ha, ?_⟩
    cases hr : regionOf p off.toNat (widthBytes w) with
    | registers => simp [hr] at h
    | unmapped => simp [hr] at h
    | src a =>
      obtain ⟨h1, h2, h3⟩ := regionOf_src hr
      simp only [hr, Option.some.injEq] at h
      exact .inl ⟨h1, h2, by rw [← h, h3]⟩
    | dst a =>
      obtain ⟨h1, h2, h3⟩ := regionOf_dst hr
      simp only [hr, Option.some.injEq] at h
      exact .inr ⟨h1, h2, by rw [← h, h3]⟩
  · cases h

/-- A window's target stays inside its buffer. -/
theorem windowTarget_bound {p : Params} {off : Offset} {w : Width} {t : WindowTarget} (h : windowTarget p off w = some t) :
    match t with
    | .src a => a + widthBytes w ≤ p.srcCap
    | .dst a => a + widthBytes w ≤ p.dstCap := by
  rcases (windowTarget_eq_some h).2 with ⟨h1, h2, rfl⟩ | ⟨h1, h2, rfl⟩ <;> simp only <;> omega

end Sys2Proof.Machine
end

