-- ==== Sys2Proof/Laws/Decode.lean ====
section
/-!
SUPPORT. What the decoder does with an access to the register page, said once.
-/

namespace Sys2Proof.Machine

/-- An aligned 32-bit access below 0x1000 is one the register page takes (20_memory.md R63). -/
theorem registerAccessOk_of_le (p : Params) {off : Offset} (h : off.toNat ≤ 0xFFC) (ha : off.toNat % 4 = 0) :
    registerAccessOk p off .w32 = true := by
  have hr : off.toNat + 4 ≤ 0x1000 := by omega
  simp [registerAccessOk, aligned, widthBytes, ha, regionOf, hr]

/-- The register page takes nothing else. -/
theorem registerAccessOk_iff (p : Params) (off : Offset) (w : Width) :
    registerAccessOk p off w = true ↔ w = .w32 ∧ off.toNat ≤ 0xFFC ∧ off.toNat % 4 = 0 := by
  constructor
  · intro h
    simp only [registerAccessOk, Bool.and_eq_true, beq_iff_eq] at h
    obtain ⟨⟨hr, rfl⟩, ha⟩ := h
    have hle : off.toNat + 4 ≤ 0x1000 := regionOf_registers hr
    have ha' : off.toNat % 4 = 0 := by simpa [aligned, widthBytes] using ha
    exact ⟨rfl, by omega, ha'⟩
  · rintro ⟨rfl, h, ha⟩
    exact registerAccessOk_of_le p h ha

/-- An aligned 32-bit write to the register page is decoded by its register. -/
theorem decode_register_write (p : Params) {off : Offset} (h : off.toNat ≤ 0xFFC) (ha : off.toNat % 4 = 0) (v : Word) :
    decode p (.access { kind := .write v, off := off, width := .w32 }) = decodeRegWrite off v := by
  have hr : off.toNat + 4 ≤ 0x1000 := by omega
  simp [decode, decodeAccess, registerAccessOk_of_le p h ha, regionOf, widthBytes, hr]

/-- An aligned 32-bit read of the register page is RD_REG. -/
theorem decode_register_read (p : Params) {off : Offset} (h : off.toNat ≤ 0xFFC) (ha : off.toNat % 4 = 0) :
    decode p (.access { kind := .read, off := off, width := .w32 }) = .ok (.rdReg off) := by
  have hr : off.toNat + 4 ≤ 0x1000 := by omega
  simp [decode, decodeAccess, registerAccessOk_of_le p h ha, regionOf, widthBytes, hr]

end Sys2Proof.Machine
end

