-- ==== Sys2Proof/Laws/State.lean ====
section
/-!
SUPPORT. One lemma per field of State and per update of Machine/Ops.lean, each true by unfolding the update once.
-/

namespace Sys2Proof.Machine

variable (s : State)

/-! ### State.respond -/

@[simp] theorem State.respond_params (r : Response) : (s.respond r).params = s.params := rfl
@[simp] theorem State.respond_cmd (r : Response) : (s.respond r).cmd = s.cmd := rfl
@[simp] theorem State.respond_srcLen (r : Response) : (s.respond r).srcLen = s.srcLen := rfl
@[simp] theorem State.respond_dstLen (r : Response) : (s.respond r).dstLen = s.dstLen := rfl
@[simp] theorem State.respond_status (r : Response) : (s.respond r).status = s.status := rfl
@[simp] theorem State.respond_errPos (r : Response) : (s.respond r).errPos = s.errPos := rfl
@[simp] theorem State.respond_doneIe (r : Response) : (s.respond r).doneIe = s.doneIe := rfl
@[simp] theorem State.respond_doneIp (r : Response) : (s.respond r).doneIp = s.doneIp := rfl
@[simp] theorem State.respond_src (r : Response) : (s.respond r).src = s.src := rfl
@[simp] theorem State.respond_dst (r : Response) : (s.respond r).dst = s.dst := rfl
@[simp] theorem State.respond_hidden (r : Response) : (s.respond r).hidden = s.hidden := rfl
@[simp] theorem State.respond_rst (r : Response) : (s.respond r).rst = s.rst := rfl
@[simp] theorem State.respond_events (r : Response) : (s.respond r).events = s.events := rfl
@[simp] theorem State.respond_resp (r : Response) : (s.respond r).resp = r := rfl
@[simp] theorem State.respond_dstDraw (r : Response) : (s.respond r).dstDraw = s.dstDraw := rfl
@[simp] theorem State.respond_draws (r : Response) : (s.respond r).draws = s.draws := rfl

/-! ### State.writeSrc -/

@[simp] theorem State.writeSrc_params (a : Nat) (v : List Byte) : (s.writeSrc a v).params = s.params := rfl
@[simp] theorem State.writeSrc_cmd (a : Nat) (v : List Byte) : (s.writeSrc a v).cmd = s.cmd := rfl
@[simp] theorem State.writeSrc_srcLen (a : Nat) (v : List Byte) : (s.writeSrc a v).srcLen = s.srcLen := rfl
@[simp] theorem State.writeSrc_dstLen (a : Nat) (v : List Byte) : (s.writeSrc a v).dstLen = s.dstLen := rfl
@[simp] theorem State.writeSrc_status (a : Nat) (v : List Byte) : (s.writeSrc a v).status = s.status := rfl
@[simp] theorem State.writeSrc_errPos (a : Nat) (v : List Byte) : (s.writeSrc a v).errPos = s.errPos := rfl
@[simp] theorem State.writeSrc_doneIe (a : Nat) (v : List Byte) : (s.writeSrc a v).doneIe = s.doneIe := rfl
@[simp] theorem State.writeSrc_doneIp (a : Nat) (v : List Byte) : (s.writeSrc a v).doneIp = s.doneIp := rfl
@[simp] theorem State.writeSrc_src (a : Nat) (v : List Byte) : (s.writeSrc a v).src = s.src.putBytes a v := rfl
@[simp] theorem State.writeSrc_dst (a : Nat) (v : List Byte) : (s.writeSrc a v).dst = s.dst := rfl
@[simp] theorem State.writeSrc_hidden (a : Nat) (v : List Byte) : (s.writeSrc a v).hidden = s.hidden := rfl
@[simp] theorem State.writeSrc_rst (a : Nat) (v : List Byte) : (s.writeSrc a v).rst = s.rst := rfl
@[simp] theorem State.writeSrc_events (a : Nat) (v : List Byte) : (s.writeSrc a v).events = s.events := rfl
@[simp] theorem State.writeSrc_resp (a : Nat) (v : List Byte) : (s.writeSrc a v).resp = s.resp := rfl
@[simp] theorem State.writeSrc_dstDraw (a : Nat) (v : List Byte) : (s.writeSrc a v).dstDraw = s.dstDraw := rfl
@[simp] theorem State.writeSrc_draws (a : Nat) (v : List Byte) : (s.writeSrc a v).draws = s.draws := rfl

/-! ### State.writeDst -/

@[simp] theorem State.writeDst_params (a : Nat) (v : List Byte) : (s.writeDst a v).params = s.params := rfl
@[simp] theorem State.writeDst_cmd (a : Nat) (v : List Byte) : (s.writeDst a v).cmd = s.cmd := rfl
@[simp] theorem State.writeDst_srcLen (a : Nat) (v : List Byte) : (s.writeDst a v).srcLen = s.srcLen := rfl
@[simp] theorem State.writeDst_dstLen (a : Nat) (v : List Byte) : (s.writeDst a v).dstLen = s.dstLen := rfl
@[simp] theorem State.writeDst_status (a : Nat) (v : List Byte) : (s.writeDst a v).status = s.status := rfl
@[simp] theorem State.writeDst_errPos (a : Nat) (v : List Byte) : (s.writeDst a v).errPos = s.errPos := rfl
@[simp] theorem State.writeDst_doneIe (a : Nat) (v : List Byte) : (s.writeDst a v).doneIe = s.doneIe := rfl
@[simp] theorem State.writeDst_doneIp (a : Nat) (v : List Byte) : (s.writeDst a v).doneIp = s.doneIp := rfl
@[simp] theorem State.writeDst_src (a : Nat) (v : List Byte) : (s.writeDst a v).src = s.src := rfl
@[simp] theorem State.writeDst_dst (a : Nat) (v : List Byte) : (s.writeDst a v).dst = s.dst.putBytes a v := rfl
@[simp] theorem State.writeDst_hidden (a : Nat) (v : List Byte) : (s.writeDst a v).hidden = s.hidden := rfl
@[simp] theorem State.writeDst_rst (a : Nat) (v : List Byte) : (s.writeDst a v).rst = s.rst := rfl
@[simp] theorem State.writeDst_events (a : Nat) (v : List Byte) : (s.writeDst a v).events = s.events := rfl
@[simp] theorem State.writeDst_resp (a : Nat) (v : List Byte) : (s.writeDst a v).resp = s.resp := rfl
@[simp] theorem State.writeDst_dstDraw (a : Nat) (v : List Byte) : (s.writeDst a v).dstDraw = s.dstDraw := rfl
@[simp] theorem State.writeDst_draws (a : Nat) (v : List Byte) : (s.writeDst a v).draws = s.draws := rfl

/-! ### State.draw -/

@[simp] theorem State.draw_params : (s.draw).params = s.params := rfl
@[simp] theorem State.draw_cmd : (s.draw).cmd = s.cmd := rfl
@[simp] theorem State.draw_srcLen : (s.draw).srcLen = s.srcLen := rfl
@[simp] theorem State.draw_dstLen : (s.draw).dstLen = s.dstLen := rfl
@[simp] theorem State.draw_status : (s.draw).status = s.status := rfl
@[simp] theorem State.draw_errPos : (s.draw).errPos = s.errPos := rfl
@[simp] theorem State.draw_doneIe : (s.draw).doneIe = s.doneIe := rfl
@[simp] theorem State.draw_doneIp : (s.draw).doneIp = s.doneIp := rfl
@[simp] theorem State.draw_src : (s.draw).src = s.src := rfl
@[simp] theorem State.draw_dst : (s.draw).dst = s.dst := rfl
@[simp] theorem State.draw_hidden : (s.draw).hidden = s.hidden := rfl
@[simp] theorem State.draw_rst : (s.draw).rst = s.rst := rfl
@[simp] theorem State.draw_events : (s.draw).events = s.events := rfl
@[simp] theorem State.draw_resp : (s.draw).resp = s.resp := rfl
@[simp] theorem State.draw_dstDraw : (s.draw).dstDraw = s.dstDraw := rfl
@[simp] theorem State.draw_draws : (s.draw).draws = s.draws + 1 := rfl

/-! ### State.loseDst -/

@[simp] theorem State.loseDst_params : (s.loseDst).params = s.params := rfl
@[simp] theorem State.loseDst_cmd : (s.loseDst).cmd = s.cmd := rfl
@[simp] theorem State.loseDst_srcLen : (s.loseDst).srcLen = s.srcLen := rfl
@[simp] theorem State.loseDst_dstLen : (s.loseDst).dstLen = s.dstLen := rfl
@[simp] theorem State.loseDst_status : (s.loseDst).status = s.status := rfl
@[simp] theorem State.loseDst_errPos : (s.loseDst).errPos = s.errPos := rfl
@[simp] theorem State.loseDst_doneIe : (s.loseDst).doneIe = s.doneIe := rfl
@[simp] theorem State.loseDst_doneIp : (s.loseDst).doneIp = s.doneIp := rfl
@[simp] theorem State.loseDst_src : (s.loseDst).src = s.src := rfl
@[simp] theorem State.loseDst_dst : (s.loseDst).dst = [] := rfl
@[simp] theorem State.loseDst_hidden : (s.loseDst).hidden = s.hidden := rfl
@[simp] theorem State.loseDst_rst : (s.loseDst).rst = s.rst := rfl
@[simp] theorem State.loseDst_events : (s.loseDst).events = s.events := rfl
@[simp] theorem State.loseDst_resp : (s.loseDst).resp = s.resp := rfl
@[simp] theorem State.loseDst_dstDraw : (s.loseDst).dstDraw = s.draws := rfl
@[simp] theorem State.loseDst_draws : (s.loseDst).draws = s.draws + 1 := rfl

/-! ### State.setHidden -/

@[simp] theorem State.setHidden_params (h : Hidden) : (s.setHidden h).params = s.params := rfl
@[simp] theorem State.setHidden_cmd (h : Hidden) : (s.setHidden h).cmd = s.cmd := rfl
@[simp] theorem State.setHidden_srcLen (h : Hidden) : (s.setHidden h).srcLen = s.srcLen := rfl
@[simp] theorem State.setHidden_dstLen (h : Hidden) : (s.setHidden h).dstLen = s.dstLen := rfl
@[simp] theorem State.setHidden_status (h : Hidden) : (s.setHidden h).status = s.status := rfl
@[simp] theorem State.setHidden_errPos (h : Hidden) : (s.setHidden h).errPos = s.errPos := rfl
@[simp] theorem State.setHidden_doneIe (h : Hidden) : (s.setHidden h).doneIe = s.doneIe := rfl
@[simp] theorem State.setHidden_doneIp (h : Hidden) : (s.setHidden h).doneIp = s.doneIp := rfl
@[simp] theorem State.setHidden_src (h : Hidden) : (s.setHidden h).src = s.src := rfl
@[simp] theorem State.setHidden_dst (h : Hidden) : (s.setHidden h).dst = s.dst := rfl
@[simp] theorem State.setHidden_hidden (h : Hidden) : (s.setHidden h).hidden = h := rfl
@[simp] theorem State.setHidden_rst (h : Hidden) : (s.setHidden h).rst = s.rst := rfl
@[simp] theorem State.setHidden_events (h : Hidden) : (s.setHidden h).events = s.events := rfl
@[simp] theorem State.setHidden_resp (h : Hidden) : (s.setHidden h).resp = s.resp := rfl
@[simp] theorem State.setHidden_dstDraw (h : Hidden) : (s.setHidden h).dstDraw = s.dstDraw := rfl
@[simp] theorem State.setHidden_draws (h : Hidden) : (s.setHidden h).draws = s.draws := rfl

/-! ### State.accept -/

@[simp] theorem State.accept_params : (s.accept).params = s.params := rfl
@[simp] theorem State.accept_cmd : (s.accept).cmd = s.cmd := rfl
@[simp] theorem State.accept_srcLen : (s.accept).srcLen = s.srcLen := rfl
@[simp] theorem State.accept_dstLen : (s.accept).dstLen = 0 := rfl
@[simp] theorem State.accept_status : (s.accept).status = statusBusy := rfl
@[simp] theorem State.accept_errPos : (s.accept).errPos = 0 := rfl
@[simp] theorem State.accept_doneIe : (s.accept).doneIe = s.doneIe := rfl
@[simp] theorem State.accept_doneIp : (s.accept).doneIp = s.doneIp := rfl
@[simp] theorem State.accept_src : (s.accept).src = s.src := rfl
@[simp] theorem State.accept_dst : (s.accept).dst = s.dst := rfl
@[simp] theorem State.accept_hidden : (s.accept).hidden = { s.hidden with cmdL := s.cmd, lenL := s.srcLen } := rfl
@[simp] theorem State.accept_rst : (s.accept).rst = s.rst := rfl
@[simp] theorem State.accept_events : (s.accept).events = s.events := rfl
@[simp] theorem State.accept_resp : (s.accept).resp = s.resp := rfl
@[simp] theorem State.accept_dstDraw : (s.accept).dstDraw = s.dstDraw := rfl
@[simp] theorem State.accept_draws : (s.accept).draws = s.draws := rfl

/-! ### State.markSuccess -/

@[simp] theorem State.markSuccess_params (n : Nat) : (s.markSuccess n).params = s.params := rfl
@[simp] theorem State.markSuccess_cmd (n : Nat) : (s.markSuccess n).cmd = s.cmd := rfl
@[simp] theorem State.markSuccess_srcLen (n : Nat) : (s.markSuccess n).srcLen = s.srcLen := rfl
@[simp] theorem State.markSuccess_dstLen (n : Nat) : (s.markSuccess n).dstLen = BitVec.ofNat 32 n := rfl
@[simp] theorem State.markSuccess_status (n : Nat) : (s.markSuccess n).status = statusSuccess := rfl
@[simp] theorem State.markSuccess_errPos (n : Nat) : (s.markSuccess n).errPos = 0 := rfl
@[simp] theorem State.markSuccess_doneIe (n : Nat) : (s.markSuccess n).doneIe = s.doneIe := rfl
@[simp] theorem State.markSuccess_doneIp (n : Nat) : (s.markSuccess n).doneIp = true := rfl
@[simp] theorem State.markSuccess_src (n : Nat) : (s.markSuccess n).src = s.src := rfl
@[simp] theorem State.markSuccess_dst (n : Nat) : (s.markSuccess n).dst = s.dst := rfl
@[simp] theorem State.markSuccess_hidden (n : Nat) : (s.markSuccess n).hidden = s.hidden := rfl
@[simp] theorem State.markSuccess_rst (n : Nat) : (s.markSuccess n).rst = s.rst := rfl
@[simp] theorem State.markSuccess_events (n : Nat) : (s.markSuccess n).events = s.events := rfl
@[simp] theorem State.markSuccess_resp (n : Nat) : (s.markSuccess n).resp = s.resp := rfl
@[simp] theorem State.markSuccess_dstDraw (n : Nat) : (s.markSuccess n).dstDraw = s.dstDraw := rfl
@[simp] theorem State.markSuccess_draws (n : Nat) : (s.markSuccess n).draws = s.draws := rfl

/-! ### State.markError -/

@[simp] theorem State.markError_params (k : ErrKind) (c : Cause) (pos : Nat) : (s.markError k c pos).params = s.params := rfl
@[simp] theorem State.markError_cmd (k : ErrKind) (c : Cause) (pos : Nat) : (s.markError k c pos).cmd = s.cmd := rfl
@[simp] theorem State.markError_srcLen (k : ErrKind) (c : Cause) (pos : Nat) : (s.markError k c pos).srcLen = s.srcLen := rfl
@[simp] theorem State.markError_dstLen (k : ErrKind) (c : Cause) (pos : Nat) : (s.markError k c pos).dstLen = 0 := rfl
@[simp] theorem State.markError_status (k : ErrKind) (c : Cause) (pos : Nat) : (s.markError k c pos).status = statusError k c := rfl
@[simp] theorem State.markError_errPos (k : ErrKind) (c : Cause) (pos : Nat) : (s.markError k c pos).errPos = BitVec.ofNat 32 pos := rfl
@[simp] theorem State.markError_doneIe (k : ErrKind) (c : Cause) (pos : Nat) : (s.markError k c pos).doneIe = s.doneIe := rfl
@[simp] theorem State.markError_doneIp (k : ErrKind) (c : Cause) (pos : Nat) : (s.markError k c pos).doneIp = true := rfl
@[simp] theorem State.markError_src (k : ErrKind) (c : Cause) (pos : Nat) : (s.markError k c pos).src = s.src := rfl
@[simp] theorem State.markError_dst (k : ErrKind) (c : Cause) (pos : Nat) : (s.markError k c pos).dst = s.dst := rfl
@[simp] theorem State.markError_hidden (k : ErrKind) (c : Cause) (pos : Nat) : (s.markError k c pos).hidden = s.hidden := rfl
@[simp] theorem State.markError_rst (k : ErrKind) (c : Cause) (pos : Nat) : (s.markError k c pos).rst = s.rst := rfl
@[simp] theorem State.markError_events (k : ErrKind) (c : Cause) (pos : Nat) : (s.markError k c pos).events = s.events := rfl
@[simp] theorem State.markError_resp (k : ErrKind) (c : Cause) (pos : Nat) : (s.markError k c pos).resp = s.resp := rfl
@[simp] theorem State.markError_dstDraw (k : ErrKind) (c : Cause) (pos : Nat) : (s.markError k c pos).dstDraw = s.dstDraw := rfl
@[simp] theorem State.markError_draws (k : ErrKind) (c : Cause) (pos : Nat) : (s.markError k c pos).draws = s.draws := rfl

/-! ### State.complete -/

@[simp] theorem State.complete_params (out : List Byte) : (s.complete out).params = s.params := rfl
@[simp] theorem State.complete_cmd (out : List Byte) : (s.complete out).cmd = s.cmd := rfl
@[simp] theorem State.complete_srcLen (out : List Byte) : (s.complete out).srcLen = s.srcLen := rfl
@[simp] theorem State.complete_dstLen (out : List Byte) : (s.complete out).dstLen = BitVec.ofNat 32 out.length := rfl
@[simp] theorem State.complete_status (out : List Byte) : (s.complete out).status = statusSuccess := rfl
@[simp] theorem State.complete_errPos (out : List Byte) : (s.complete out).errPos = 0 := rfl
@[simp] theorem State.complete_doneIe (out : List Byte) : (s.complete out).doneIe = s.doneIe := rfl
@[simp] theorem State.complete_doneIp (out : List Byte) : (s.complete out).doneIp = true := rfl
@[simp] theorem State.complete_src (out : List Byte) : (s.complete out).src = s.src := rfl
@[simp] theorem State.complete_dst (out : List Byte) : (s.complete out).dst = s.dst.putBytes 0 out := rfl
@[simp] theorem State.complete_hidden (out : List Byte) : (s.complete out).hidden = s.hidden := rfl
@[simp] theorem State.complete_rst (out : List Byte) : (s.complete out).rst = s.rst := rfl
@[simp] theorem State.complete_events (out : List Byte) : (s.complete out).events = s.events := rfl
@[simp] theorem State.complete_resp (out : List Byte) : (s.complete out).resp = s.resp := rfl
@[simp] theorem State.complete_dstDraw (out : List Byte) : (s.complete out).dstDraw = s.dstDraw := rfl
@[simp] theorem State.complete_draws (out : List Byte) : (s.complete out).draws = s.draws := rfl

/-! ### State.acknowledge -/

@[simp] theorem State.acknowledge_params : (s.acknowledge).params = s.params := rfl
@[simp] theorem State.acknowledge_cmd : (s.acknowledge).cmd = s.cmd := rfl
@[simp] theorem State.acknowledge_srcLen : (s.acknowledge).srcLen = s.srcLen := rfl
@[simp] theorem State.acknowledge_dstLen : (s.acknowledge).dstLen = s.dstLen := rfl
@[simp] theorem State.acknowledge_status : (s.acknowledge).status = s.status := rfl
@[simp] theorem State.acknowledge_errPos : (s.acknowledge).errPos = s.errPos := rfl
@[simp] theorem State.acknowledge_doneIe : (s.acknowledge).doneIe = s.doneIe := rfl
@[simp] theorem State.acknowledge_doneIp : (s.acknowledge).doneIp = false := rfl
@[simp] theorem State.acknowledge_src : (s.acknowledge).src = s.src := rfl
@[simp] theorem State.acknowledge_dst : (s.acknowledge).dst = s.dst := rfl
@[simp] theorem State.acknowledge_hidden : (s.acknowledge).hidden = s.hidden := rfl
@[simp] theorem State.acknowledge_rst : (s.acknowledge).rst = s.rst := rfl
@[simp] theorem State.acknowledge_events : (s.acknowledge).events = s.events := rfl
@[simp] theorem State.acknowledge_resp : (s.acknowledge).resp = s.resp := rfl
@[simp] theorem State.acknowledge_dstDraw : (s.acknowledge).dstDraw = s.dstDraw := rfl
@[simp] theorem State.acknowledge_draws : (s.acknowledge).draws = s.draws := rfl

/-! ### State.clearRegisters -/

@[simp] theorem State.clearRegisters_params : (s.clearRegisters).params = s.params := rfl
@[simp] theorem State.clearRegisters_cmd : (s.clearRegisters).cmd = 0 := rfl
@[simp] theorem State.clearRegisters_srcLen : (s.clearRegisters).srcLen = 0 := rfl
@[simp] theorem State.clearRegisters_dstLen : (s.clearRegisters).dstLen = 0 := rfl
@[simp] theorem State.clearRegisters_status : (s.clearRegisters).status = 0 := rfl
@[simp] theorem State.clearRegisters_errPos : (s.clearRegisters).errPos = 0 := rfl
@[simp] theorem State.clearRegisters_doneIe : (s.clearRegisters).doneIe = false := rfl
@[simp] theorem State.clearRegisters_doneIp : (s.clearRegisters).doneIp = false := rfl
@[simp] theorem State.clearRegisters_src : (s.clearRegisters).src = s.src := rfl
@[simp] theorem State.clearRegisters_dst : (s.clearRegisters).dst = s.dst := rfl
@[simp] theorem State.clearRegisters_hidden : (s.clearRegisters).hidden = s.hidden := rfl
@[simp] theorem State.clearRegisters_rst : (s.clearRegisters).rst = s.rst := rfl
@[simp] theorem State.clearRegisters_events : (s.clearRegisters).events = s.events := rfl
@[simp] theorem State.clearRegisters_resp : (s.clearRegisters).resp = s.resp := rfl
@[simp] theorem State.clearRegisters_dstDraw : (s.clearRegisters).dstDraw = s.dstDraw := rfl
@[simp] theorem State.clearRegisters_draws : (s.clearRegisters).draws = s.draws := rfl

/-! ### State.loseHidden -/

@[simp] theorem State.loseHidden_params : (s.loseHidden).params = s.params := rfl
@[simp] theorem State.loseHidden_cmd : (s.loseHidden).cmd = s.cmd := rfl
@[simp] theorem State.loseHidden_srcLen : (s.loseHidden).srcLen = s.srcLen := rfl
@[simp] theorem State.loseHidden_dstLen : (s.loseHidden).dstLen = s.dstLen := rfl
@[simp] theorem State.loseHidden_status : (s.loseHidden).status = s.status := rfl
@[simp] theorem State.loseHidden_errPos : (s.loseHidden).errPos = s.errPos := rfl
@[simp] theorem State.loseHidden_doneIe : (s.loseHidden).doneIe = s.doneIe := rfl
@[simp] theorem State.loseHidden_doneIp : (s.loseHidden).doneIp = s.doneIp := rfl
@[simp] theorem State.loseHidden_src : (s.loseHidden).src = s.src := rfl
@[simp] theorem State.loseHidden_dst : (s.loseHidden).dst = s.dst := rfl
@[simp] theorem State.loseHidden_hidden : (s.loseHidden).hidden = Config.freeHidden s.draws := rfl
@[simp] theorem State.loseHidden_rst : (s.loseHidden).rst = s.rst := rfl
@[simp] theorem State.loseHidden_events : (s.loseHidden).events = s.events := rfl
@[simp] theorem State.loseHidden_resp : (s.loseHidden).resp = s.resp := rfl
@[simp] theorem State.loseHidden_dstDraw : (s.loseHidden).dstDraw = s.dstDraw := rfl
@[simp] theorem State.loseHidden_draws : (s.loseHidden).draws = s.draws + 1 := rfl

/-! ### State.raise -/

variable (k : ErrKind) (c : Cause) (pos : Nat)

@[simp] theorem State.raise_params (e : DstEffect) : (s.raise k c pos e).params = s.params := by
  cases e <;> rfl
@[simp] theorem State.raise_cmd (e : DstEffect) : (s.raise k c pos e).cmd = s.cmd := by
  cases e <;> rfl
@[simp] theorem State.raise_srcLen (e : DstEffect) : (s.raise k c pos e).srcLen = s.srcLen := by
  cases e <;> rfl
@[simp] theorem State.raise_dstLen (e : DstEffect) : (s.raise k c pos e).dstLen = 0 := by
  cases e <;> rfl
@[simp] theorem State.raise_status (e : DstEffect) : (s.raise k c pos e).status = statusError k c := by
  cases e <;> rfl
@[simp] theorem State.raise_errPos (e : DstEffect) : (s.raise k c pos e).errPos = BitVec.ofNat 32 pos := by
  cases e <;> rfl
@[simp] theorem State.raise_doneIe (e : DstEffect) : (s.raise k c pos e).doneIe = s.doneIe := by
  cases e <;> rfl
@[simp] theorem State.raise_doneIp (e : DstEffect) : (s.raise k c pos e).doneIp = true := by
  cases e <;> rfl
@[simp] theorem State.raise_src (e : DstEffect) : (s.raise k c pos e).src = s.src := by
  cases e <;> rfl
@[simp] theorem State.raise_hidden (e : DstEffect) : (s.raise k c pos e).hidden = s.hidden := by
  cases e <;> rfl
@[simp] theorem State.raise_rst (e : DstEffect) : (s.raise k c pos e).rst = s.rst := by
  cases e <;> rfl
@[simp] theorem State.raise_events (e : DstEffect) : (s.raise k c pos e).events = s.events := by
  cases e <;> rfl
@[simp] theorem State.raise_resp (e : DstEffect) : (s.raise k c pos e).resp = s.resp := by
  cases e <;> rfl
@[simp] theorem State.raise_kept_dst : (s.raise k c pos .kept).dst = s.dst := rfl
@[simp] theorem State.raise_kept_dstDraw : (s.raise k c pos .kept).dstDraw = s.dstDraw := rfl
@[simp] theorem State.raise_kept_draws : (s.raise k c pos .kept).draws = s.draws := rfl
@[simp] theorem State.raise_lost_dst : (s.raise k c pos .lost).dst = [] := rfl
@[simp] theorem State.raise_lost_dstDraw : (s.raise k c pos .lost).dstDraw = s.draws := rfl
@[simp] theorem State.raise_lost_draws : (s.raise k c pos .lost).draws = s.draws + 1 := rfl

/-! ### State.resetBlock -/

@[simp] theorem State.resetBlock_params : s.resetBlock.params = s.params := by
  unfold State.resetBlock; split <;> rfl
@[simp] theorem State.resetBlock_cmd : s.resetBlock.cmd = 0 := by
  unfold State.resetBlock; split <;> rfl
@[simp] theorem State.resetBlock_srcLen : s.resetBlock.srcLen = 0 := by
  unfold State.resetBlock; split <;> rfl
@[simp] theorem State.resetBlock_dstLen : s.resetBlock.dstLen = 0 := by
  unfold State.resetBlock; split <;> rfl
@[simp] theorem State.resetBlock_status : s.resetBlock.status = 0 := by
  unfold State.resetBlock; split <;> rfl
@[simp] theorem State.resetBlock_errPos : s.resetBlock.errPos = 0 := by
  unfold State.resetBlock; split <;> rfl
@[simp] theorem State.resetBlock_doneIe : s.resetBlock.doneIe = false := by
  unfold State.resetBlock; split <;> rfl
@[simp] theorem State.resetBlock_doneIp : s.resetBlock.doneIp = false := by
  unfold State.resetBlock; split <;> rfl
@[simp] theorem State.resetBlock_src : s.resetBlock.src = s.src := by
  unfold State.resetBlock; split <;> rfl
@[simp] theorem State.resetBlock_rst : s.resetBlock.rst = s.rst := by
  unfold State.resetBlock; split <;> rfl
@[simp] theorem State.resetBlock_events : s.resetBlock.events = s.events := by
  unfold State.resetBlock; split <;> rfl
@[simp] theorem State.resetBlock_resp : s.resetBlock.resp = s.resp := by
  unfold State.resetBlock; split <;> rfl

end Sys2Proof.Machine
end

