-- ==== Sys2Proof/Laws/Memory.lean ====
section
/-!
SUPPORT. The laws of the buffers: read after write, the canonical form and the index bound, for every memory operation.
-/

namespace Sys2Proof.Machine

/-! ### One byte -/

theorem Memory.get_put_same (m : Memory) (a : Nat) (v : Byte) : (m.put a v).get a = some v := by
  induction m with
  | nil => simp [Memory.put, Memory.get]
  | cons c m ih =>
    obtain ⟨b, w⟩ := c
    unfold Memory.put
    split
    · simp [Memory.get]
    · split
      · simp [Memory.get]
      · have : b ≠ a := by omega
        simpa [Memory.get, this] using ih

theorem Memory.get_put_other (m : Memory) {a b : Nat} (v : Byte) (h : b ≠ a) : (m.put a v).get b = m.get b := by
  induction m with
  | nil => simp [Memory.put, Memory.get, h.symm]
  | cons c m ih =>
    obtain ⟨d, w⟩ := c
    unfold Memory.put
    split
    · simp [Memory.get, h.symm]
    · split
      · rename_i hd
        subst hd
        simp [Memory.get, h.symm]
      · by_cases hd : d = b <;> simp [Memory.get, hd, ih]

theorem Memory.mem_put {m : Memory} {a : Nat} {v : Byte} {c : Host.Cell} (h : c ∈ m.put a v) : c = (a, v) ∨ c ∈ m := by
  induction m with
  | nil => simpa [Memory.put] using h
  | cons d m ih =>
    obtain ⟨b, w⟩ := d
    unfold Memory.put at h
    split at h
    · simpa using h
    · split at h
      · rcases List.mem_cons.1 h with h | h
        · exact .inl h
        · exact .inr (List.mem_cons_of_mem _ h)
      · rcases List.mem_cons.1 h with h | h
        · exact .inr (h ▸ List.mem_cons_self)
        · exact (ih h).imp id (List.mem_cons_of_mem _)

/-- Writing a byte keeps the canonical form. -/
theorem Memory.put_wf {m : Memory} (h : m.wf) (a : Nat) (v : Byte) : (m.put a v).wf := by
  induction m with
  | nil => simp [Memory.put, Memory.wf]
  | cons c m ih =>
    obtain ⟨b, w⟩ := c
    simp only [Memory.wf, List.map_cons, List.pairwise_cons, List.mem_map, forall_exists_index, and_imp] at h ih ⊢
    obtain ⟨hb, hm⟩ := h
    unfold Memory.put
    split
    · rename_i hab
      simp only [List.map_cons, List.pairwise_cons, List.mem_cons, List.mem_map]
      refine ⟨?_, ?_, hm⟩
      · rintro x (rfl | ⟨y, hy, rfl⟩)
        · exact hab
        · exact hab.trans (hb _ y hy rfl)
      · rintro x ⟨y, hy, rfl⟩
        exact hb _ y hy rfl
    · split
      · rename_i hab
        subst hab
        simp only [List.map_cons, List.pairwise_cons, List.mem_map]
        exact ⟨fun x ⟨y, hy, e⟩ => hb x y hy e, hm⟩
      · simp only [List.map_cons, List.pairwise_cons, List.mem_map]
        refine ⟨?_, ih hm⟩
        rintro x ⟨y, hy, rfl⟩
        rcases Memory.mem_put hy with rfl | hy
        · show b < a
          omega
        · exact hb _ y hy rfl

/-! ### A byte string -/

theorem Memory.putBytes_wf {m : Memory} (h : m.wf) (a : Nat) (v : List Byte) : (m.putBytes a v).wf := by
  induction v generalizing m a with
  | nil => exact h
  | cons b v ih => exact ih (Memory.put_wf h a b) (a + 1)

theorem Memory.get_putBytes_below (m : Memory) {a b : Nat} (v : List Byte) (h : b < a) :
    (m.putBytes a v).get b = m.get b := by
  induction v generalizing m a with
  | nil => rfl
  | cons w v ih =>
    rw [Memory.putBytes, ih _ (by omega), Memory.get_put_other _ _ (by omega)]

/-- What every index reads after a byte string is written. -/
theorem Memory.get_putBytes (m : Memory) (a b : Nat) (v : List Byte) :
    (m.putBytes a v).get b = if h : a ≤ b ∧ b - a < v.length then some (v[b - a]'h.2) else m.get b := by
  induction v generalizing m a with
  | nil => simp [Memory.putBytes]
  | cons w v ih =>
    rw [Memory.putBytes, ih]
    rcases lt_trichotomy b a with hb | rfl | hb
    · rw [dif_neg (by omega), dif_neg (by omega), Memory.get_put_other _ _ (by omega)]
    · rw [dif_neg (by omega), dif_pos (by simp), Memory.get_put_same]
      simp
    · by_cases hl : b - a < v.length + 1
      · have e : b - a = (b - (a + 1)) + 1 := by omega
        rw [dif_pos (by omega), dif_pos (by simp; omega)]
        simp only [e, List.getElem_cons_succ]
      · rw [dif_neg (by omega), dif_neg (by simp; omega), Memory.get_put_other _ _ (by omega)]

theorem Memory.putBytes_bound {m : Memory} {a n : Nat} {v : List Byte} (h : ∀ c ∈ m, c.1 < n) (hv : a + v.length ≤ n) :
    ∀ c ∈ m.putBytes a v, c.1 < n := by
  induction v generalizing m a with
  | nil => exact h
  | cons b v ih =>
    simp only [List.length_cons] at hv
    refine ih (fun c hc => ?_) (by omega)
    rcases Memory.mem_put hc with rfl | hc
    · show a < n
      omega
    · exact h c hc

/-- The memories of State.reset are in canonical form. -/
theorem State.reset_memories_wf : State.reset.src.wf ∧ State.reset.dst.wf := by
  decide

/-! ### The bytes of the two buffers -/

variable (s : State)

theorem Memory.readOr_putBytes (m : Memory) (n a b : Nat) (v : List Byte) :
    (m.putBytes a v).readOr n b = if h : a ≤ b ∧ b - a < v.length then v[b - a]'h.2 else m.readOr n b := by
  unfold Memory.readOr
  rw [Memory.get_putBytes]
  split <;> rfl

theorem State.writeSrc_srcByte (a b : Nat) (v : List Byte) :
    (s.writeSrc a v).srcByte b = if h : a ≤ b ∧ b - a < v.length then v[b - a]'h.2 else s.srcByte b :=
  Memory.readOr_putBytes s.src 0 a b v

theorem State.writeDst_dstByte (a b : Nat) (v : List Byte) :
    (s.writeDst a v).dstByte b = if h : a ≤ b ∧ b - a < v.length then v[b - a]'h.2 else s.dstByte b :=
  Memory.readOr_putBytes s.dst s.dstDraw a b v

/-- A success completion writes its output at index 0 and leaves every byte from its length on (20_memory.md R79). -/
theorem State.complete_dstByte (out : List Byte) (b : Nat) :
    (s.complete out).dstByte b = if h : b < out.length then out[b] else s.dstByte b := by
  have h := State.writeDst_dstByte s 0 b out
  simpa [State.complete, State.markSuccess, State.dstByte] using h

@[simp] theorem State.complete_srcByte (out : List Byte) (b : Nat) : (s.complete out).srcByte b = s.srcByte b := rfl

@[simp] theorem State.writeDst_srcByte (a : Nat) (v : List Byte) (b : Nat) :
    (s.writeDst a v).srcByte b = s.srcByte b := rfl

@[simp] theorem State.writeSrc_dstByte (a : Nat) (v : List Byte) (b : Nat) :
    (s.writeSrc a v).dstByte b = s.dstByte b := rfl

@[simp] theorem State.respond_srcByte (r : Response) (b : Nat) : (s.respond r).srcByte b = s.srcByte b := rfl

@[simp] theorem State.respond_dstByte (r : Response) (b : Nat) : (s.respond r).dstByte b = s.dstByte b := rfl

end Sys2Proof.Machine
end

