-- ==== Sys2Proof/Laws/Ops.lean ====
section
/-!
SUPPORT. What each shared operation can do, said once: the ends of a command, reset, and the meanings
as the cases they answer.
-/

namespace Sys2Proof.Machine

/-! ### The ends of a command -/

theorem State.finish_success (s : State) (e : DstEffect) (h : Hidden) (out : List Byte) :
    s.finish e (h, .success out) = (s.setHidden h).complete out := rfl

theorem State.finish_error (s : State) (e : DstEffect) (h : Hidden) (k : ErrKind) (c : Cause) (pos : Nat) :
    s.finish e (h, .error k c pos) = (s.setHidden h).raise k c pos e := rfl

/-- A command ends in one of two ways (42_control.md R193, 60_exceptions.md R213). -/
theorem State.finish_cases (s : State) (e : DstEffect) (r : Hidden × Completion) :
    (∃ out, r.2 = .success out ∧ s.finish e r = (s.setHidden r.1).complete out) ∨
      (∃ k c pos, r.2 = .error k c pos ∧ s.finish e r = (s.setHidden r.1).raise k c pos e) := by
  obtain ⟨h, out | ⟨k, c, pos⟩⟩ := r
  · exact .inl ⟨out, rfl, rfl⟩
  · exact .inr ⟨k, c, pos, rfl, rfl⟩

/-! ### Reset -/

theorem State.resetBlock_idle (s : State) (h : s.busy = false) : s.resetBlock = s.loseHidden.clearRegisters := by
  simp [State.resetBlock, h]

theorem State.resetBlock_busy (s : State) (h : s.busy = true) : s.resetBlock = s.loseDst.loseHidden.clearRegisters := by
  simp [State.resetBlock, h]

@[simp] theorem State.resetBlock_srcByte (s : State) (a : Nat) : s.resetBlock.srcByte a = s.srcByte a := by
  simp [State.srcByte]

/-! ### The input of a command -/

@[simp] theorem State.input_length (s : State) : s.input.length = s.hidden.lenL.toNat := by
  simp [State.input]

theorem State.input_getElem (s : State) (a : Nat) (h : a < s.input.length) : s.input[a] = s.srcByte a := by
  simp [State.input]

theorem State.inputTooLong_iff (s : State) : s.inputTooLong = true ↔ s.params.srcCap < s.hidden.lenL.toNat := by
  simp [State.inputTooLong]

/-! ### The meanings -/

theorem execHufc_of_fits {s : State} (h : s.hidden.lenL.toNat ≤ s.params.srcCap) :
    execHufc s = .next (s.finish .kept (Huffman.compress s.hidden s.input s.params.dstCap)) := by
  simp [execHufc, State.inputTooLong, Nat.not_lt.2 h]

theorem execHufd_of_fits {s : State} (h : s.hidden.lenL.toNat ≤ s.params.srcCap) :
    execHufd s = .next (s.finish .lost (Huffman.decompress s.hidden s.input s.params.dstCap)) := by
  simp [execHufd, State.inputTooLong, Nat.not_lt.2 h]

theorem execLzc_of_fits {w : Byte} {s : State} (h : s.hidden.lenL.toNat ≤ s.params.srcCap) :
    execLzc w s = .next (s.finish .lost (Lz77.compress s.hidden s.input w s.params.dstCap)) := by
  simp [execLzc, State.inputTooLong, Nat.not_lt.2 h]

theorem execLzd_of_fits {s : State} (h : s.hidden.lenL.toNat ≤ s.params.srcCap) :
    execLzd s = .next (s.finish .lost (Lz77.decompress s.hidden s.input s.params.dstCap)) := by
  simp [execLzd, State.inputTooLong, Nat.not_lt.2 h]

/-- What a window access can do (42_control.md R199, 20_memory.md R68). -/
theorem execWinAccess_cases (k : AccessKind) (w : Width) (off : Offset) (s : State) :
    (windowTarget s.params off w = none ∧ execWinAccess k w off s = .next (s.respond .error)) ∨
      ∃ t, windowTarget s.params off w = some t ∧
        ((k = .read ∧ s.busy = true ∧
            execWinAccess k w off s = .next (s.draw.respond (.data (freeRead s.draws (widthBytes w))))) ∨
          (k = .read ∧ s.busy = false ∧
            execWinAccess k w off s = .next (s.respond (.data (leValue (s.windowBytes t (widthBytes w)))))) ∨
          (∃ v, k = .write v ∧ s.busy = true ∧ execWinAccess k w off s = .next (s.respond .ok)) ∨
          (∃ v, k = .write v ∧ s.busy = false ∧
            execWinAccess k w off s = .next ((s.writeWindow t (leBytes (widthBytes w) v)).respond .ok))) := by
  unfold execWinAccess
  cases ht : windowTarget s.params off w with
  | none => exact .inl ⟨rfl, rfl⟩
  | some t =>
    refine .inr ⟨t, rfl, ?_⟩
    cases k <;> cases hb : s.busy <;> simp

/-- Every meaning answers a next state, on every operand and in every state (00_scope.md R14). -/
theorem exec_answers_next (i : Instr) (s : State) : ∃ t, exec i s = .next t := by
  cases i <;>
    simp only [exec, execHufc, execHufd, execLzc, execLzd, execStart, execSreset, execIntack, execWrIntEn, execWrCmdSrcLen,
      execRdReg, execWinAccess] <;>
    repeat' (first | exact ⟨_, rfl⟩ | split)

end Sys2Proof.Machine
end

