-- ==== Sys2Proof/Laws/PerInstr.lean ====
section
/-!
SUPPORT. The family TableRow: the encoder gives every well-formed instruction a word with its row's fixed bits, at its row's
register (spec/opcode_table.json).
-/

namespace Sys2Proof.Laws.TableRow

/-- A command word that has the row's match value under the row's mask. -/
def commandRow (m : Word) (e : Encoding) : Prop :=
  ∃ c, e = .command c ∧ c &&& 0xFFFF00FF#32 = m

/-- A 32-bit write at the row's register whose data has the row's match value under the row's mask. -/
def writeRow (off : Offset) (m mask : Word) (e : Encoding) : Prop :=
  ∃ v, e = .access { kind := .write v, off := off, width := .w32 } ∧ v &&& mask = m

/-- The row of each instruction. -/
def Statement (i : Instr) : Prop :=
  ∀ p, i.wellFormed p = true →
    match i with
    | .hufc => commandRow 0x10 (encode i)
    | .hufd => commandRow 0x11 (encode i)
    | .lzc w => commandRow 0x20 (encode i) ∧ ∃ c, encode i = .command c ∧ c.extractLsb' 8 8 = w
    | .lzd => commandRow 0x21 (encode i)
    | .start v => writeRow 0x010 1 3 (encode i) ∧ encode i = write32 0x010 v
    | .sreset v => writeRow 0x010 2 2 (encode i) ∧ encode i = write32 0x010 v
    | .intack v => writeRow 0x02C 1 1 (encode i) ∧ encode i = write32 0x02C v
    | .wrIntEn v => encode i = write32 0x028 v
    | .wrCmdSrcLen r v => encode i = write32 (match r with | .cmd => 0x014 | .srcLen => 0x018) v
    | .rdReg off => encode i = .access { kind := .read, off := off, width := .w32 } ∧ off.toNat % 4 = 0 ∧ off.toNat ≤ 0xFFC
    | .winAccess k w off => encode i = .access { kind := k, off := off, width := w } ∧ 0x100000 ≤ off.toNat

theorem hufc : Statement .hufc := fun _ _ => ⟨_, rfl, by decide⟩

theorem hufd : Statement .hufd := fun _ _ => ⟨_, rfl, by decide⟩

theorem lzc (w : Byte) : Statement (.lzc w) := by
  refine fun _ _ => ⟨⟨_, rfl, ?_⟩, _, rfl, ?_⟩
  · ext k hk
    simp only [BitVec.getElem_and, BitVec.getElem_or, BitVec.getElem_shiftLeft, BitVec.getElem_setWidth]
    interval_cases k <;> simp
  · ext k hk
    simp only [BitVec.getElem_extractLsb', BitVec.getLsbD_or, BitVec.getLsbD_shiftLeft, BitVec.getLsbD_setWidth]
    interval_cases k <;> simp [← BitVec.getLsbD_eq_getElem]

theorem lzd : Statement .lzd := fun _ _ => ⟨_, rfl, by decide⟩

theorem start (v : Word) : Statement (.start v) := fun _ h => ⟨⟨v, rfl, by simpa [Instr.wellFormed] using h⟩, rfl⟩

theorem sreset (v : Word) : Statement (.sreset v) := fun _ h => ⟨⟨v, rfl, by simpa [Instr.wellFormed] using h⟩, rfl⟩

theorem intack (v : Word) : Statement (.intack v) := fun _ h => ⟨⟨v, rfl, by simpa [Instr.wellFormed] using h⟩, rfl⟩

theorem wrIntEn (v : Word) : Statement (.wrIntEn v) := fun _ _ => rfl

theorem wrCmdSrcLen (r : CmdReg) (v : Word) : Statement (.wrCmdSrcLen r v) := fun _ _ => by cases r <;> rfl

theorem rdReg (off : Offset) : Statement (.rdReg off) := by
  refine fun p h => ⟨rfl, ?_⟩
  simp only [Instr.wellFormed, Machine.registerAccessOk, Bool.and_eq_true, beq_iff_eq] at h
  obtain ⟨⟨hr, -⟩, ha⟩ := h
  have ha' : off.toNat % 4 = 0 := by simpa [Machine.aligned, Machine.widthBytes] using ha
  have hle : off.toNat + 4 ≤ 0x1000 := Machine.regionOf_registers hr
  exact ⟨ha', by omega⟩

theorem winAccess (k : AccessKind) (w : Width) (off : Offset) : Statement (.winAccess k w off) := by
  refine fun p h => ⟨rfl, ?_⟩
  obtain ⟨t, ht⟩ := Option.isSome_iff_exists.1 h
  rcases (Machine.windowTarget_eq_some ht).2 with ⟨h1, -⟩ | ⟨h1, -⟩
  · exact h1
  · exact le_trans (by decide) h1

end Sys2Proof.Laws.TableRow
end

