-- ==== Sys2Proof/Laws/Step.lean ====
section
/-!
SUPPORT. What one step can do, said once, so that no later proof unfolds the step.
-/

namespace Sys2Proof.Machine

/-- The engine's turn does nothing, runs the latched command or ends an illegal one. -/
theorem engineTurn_cases (s : State) :
    ((s.rst = true ∨ s.busy = false) ∧ engineTurn s = .next s) ∨
      (s.rst = false ∧ s.busy = true ∧ ∃ i, decodeCommand s.hidden.cmdL = .ok i ∧ engineTurn s = exec i s) ∨
      (s.rst = false ∧ s.busy = true ∧ ∃ r, decodeCommand s.hidden.cmdL = .error r ∧ engineTurn s = .next (badCommand s)) := by
  unfold engineTurn State.latchedCommand decode
  cases hr : s.rst <;> cases hb : s.busy <;> cases hd : decodeCommand s.hidden.cmdL <;> simp [hd]

/-- A host access is refused under reset, runs an instruction, or is answered without one. -/
theorem hostTurn_cases (a : Access) (s : State) :
    (s.rst = true ∧ hostTurn a s = .next (s.respond .error)) ∨
      (s.rst = false ∧ ∃ i, decodeAccess s.params a = .ok i ∧ hostTurn a s = exec i s) ∨
      (s.rst = false ∧ ∃ r, decodeAccess s.params a = .error r ∧ hostTurn a s = .next (rejectedAccess r s)) := by
  unfold hostTurn decode
  cases hr : s.rst <;> cases hd : decodeAccess s.params a <;> simp [hd]

/-- The answer to an access that is no instruction is a response and nothing else. -/
theorem rejectedAccess_eq (r : Reject) (s : State) :
    rejectedAccess r s = s.respond .error ∨ rejectedAccess r s = s.respond .ok := by
  cases r <;> simp [rejectedAccess]

/-- A step takes the schedule's first event, or the engine's turn when there is none. -/
theorem step_nil {s : State} (h : s.events = []) : step s = engineTurn s := by
  simp [step, h]

theorem step_cons {s : State} {e : Event} {es : List Event} (h : s.events = e :: es) :
    step s = takeEvent e { s with events := es } := by
  simp [step, h]

end Sys2Proof.Machine
end

