-- ==== Sys2Proof/Tests/Slice0.lean ====
section
/-!
SUPPORT. Small tests, each on one step or one word, with the expected result from spec/95_test_vectors.md or worked out from
the encoding tables; and the witnesses: for every statement with hypotheses, concrete values that meet them together.
-/

namespace Sys2Proof.Tests

open Sys2Proof.Machine Sys2Proof.Claims

-- One theorem at a time, so that the file compiles with little memory.
set_option Elab.async false

/-! ### Helpers -/

/-- A block with the input `x` in SRC, the command word `c` latched and running, and `cap` bytes of DST. -/
def running (c : Word) (x : List Byte) (cap : Nat) : State :=
  { State.reset with
    params := { Config.defaultParams with dstCap := cap }
    src := Memory.putBytes [] 0 x
    status := statusBusy
    hidden := { Hidden.reset with cmdL := c, lenL := BitVec.ofNat 32 x.length } }

/-- The state an outcome holds. -/
def stateOf (s : State) : Host.Outcome State Fault Refusal → State
  | .next t => t
  | .fault _ => s
  | .refused _ => s

/-- The state after an instruction. -/
def after (i : Instr) (s : State) : State := stateOf s (exec i s)

theorem exec_eq_after (i : Instr) (s : State) : exec i s = .next (after i s) := by
  obtain ⟨t, h⟩ := exec_answers_next i s
  rw [after, h]
  rfl

/-- The output a completed command left in DST. -/
def output (t : State) : List Byte := (List.range t.dstLen.toNat).map t.dstByte

/-- The bytes of "AAABBC". -/
def aaabbc : List Byte := [0x41, 0x41, 0x41, 0x42, 0x42, 0x43]

/-- The blob of vector H1. -/
def blobH1 : List Byte :=
  [0, 0, 0, 0x0F, 0x41, 0, 0, 0, 3, 0x42, 0, 0, 0, 2, 0x43, 0, 0, 0, 1, 7, 0x1F, 0]

/-- The table of vector H1. -/
def tableH1 : FreqTable := [(0x41, 3), (0x42, 2), (0x43, 1)]

/-! ### Decoding (vectors K1 to K10, and the table's rows written out bit by bit) -/

theorem test_decode_hufc : decodeCommand 0b0000000000000000_10101011_0001_000_0#32 = .ok .hufc := by decide

theorem test_decode_hufd : decodeCommand 0b0000000000000000_00000000_0001_000_1#32 = .ok .hufd := by decide

theorem test_decode_lzc : decodeCommand 0b0000000000000000_00000011_0010_000_0#32 = .ok (.lzc 3) := by decide

theorem test_decode_lzd : decodeCommand 0b0000000000000000_11111111_0010_000_1#32 = .ok .lzd := by decide

theorem test_decode_invalid :
    decodeCommand 0x00000000#32 = .error .invalidCommand ∧ decodeCommand 0x00000001#32 = .error .invalidCommand ∧
      decodeCommand 0x00000030#32 = .error .invalidCommand ∧ decodeCommand 0x00000012#32 = .error .invalidCommand ∧
      decodeCommand 0x00010010#32 = .error .invalidCommand ∧ decodeCommand 0x000000F1#32 = .error .invalidCommand := by decide

/-- The access a row's write stands for, under the default parameters. -/
def decodeWrite (off : Offset) (v : Word) : Except Reject Instr :=
  decode Config.defaultParams (.access (write off v))

theorem test_decode_start : decodeWrite 0x010 0xFFFFFFFD = .ok (.start 0xFFFFFFFD) := by decide

theorem test_decode_sreset : decodeWrite 0x010 0x3 = .ok (.sreset 0x3) := by decide

theorem test_decode_intack : decodeWrite 0x02C 0x1 = .ok (.intack 0x1) := by decide

theorem test_decode_int_en : decodeWrite 0x028 0x1 = .ok (.wrIntEn 0x1) := by decide

theorem test_decode_cmd : decodeWrite 0x014 0x10 = .ok (.wrCmdSrcLen .cmd 0x10) := by decide

theorem test_decode_src_len : decodeWrite 0x018 6 = .ok (.wrCmdSrcLen .srcLen 6) := by decide

theorem test_decode_rd_reg :
    decode Config.defaultParams (.access { kind := .read, off := 0x020, width := .w32 }) = .ok (.rdReg 0x020) := by decide

theorem test_decode_window :
    decode Config.defaultParams (.access { kind := .write 0x42414141, off := 0x100000, width := .w32 }) =
      .ok (.winAccess (.write 0x42414141) .w32 0x100000) := by decide

theorem test_decode_rejects :
    decodeWrite 0x010 0x4 = .error .ctrlNothing ∧ decodeWrite 0x02C 0x2 = .error .intStatNothing ∧
      decodeWrite 0x020 0xFFFFFFFF = .error .readOnly ∧ decodeWrite 0x030 1 = .error .reservedWord ∧
      decode Config.defaultParams (.access { kind := .read, off := 0x020, width := .w8 }) = .error .registerAccess ∧
      decode Config.defaultParams (.access { kind := .read, off := 0x110000, width := .w8 }) = .error .unmapped ∧
      decode Config.defaultParams (.access { kind := .write 0x11223344, off := 0x100002, width := .w32 }) =
        .error .misaligned := by decide

theorem test_table_words :
    decodeTableWord 32 0x10 = some .hufc ∧ decodeTableWord 32 0x11 = some .hufd ∧ decodeTableWord 32 0x20 = some (.lzc 0) ∧
      decodeTableWord 32 0x21 = some .lzd ∧ decodeTableWord 32 1 = some (.start 1) ∧
      decodeTableWord 32 2 = some (.sreset 2) ∧ decodeTableWord 32 0 = some (.wrIntEn 0) ∧
      decodeTableWord 33 0 = none := by decide

/-! ### WellFormed: a term that each check refuses, beside one it takes -/

theorem test_wellFormed_start :
    Instr.wellFormed Config.defaultParams (.start 0) = false ∧ Instr.wellFormed Config.defaultParams (.start 3) = false ∧
      Instr.wellFormed Config.defaultParams (.start 5) = true := by decide

theorem test_wellFormed_sreset :
    Instr.wellFormed Config.defaultParams (.sreset 1) = false ∧ Instr.wellFormed Config.defaultParams (.sreset 2) = true := by
  decide

theorem test_wellFormed_intack :
    Instr.wellFormed Config.defaultParams (.intack 2) = false ∧ Instr.wellFormed Config.defaultParams (.intack 1) = true := by
  decide

theorem test_wellFormed_rdReg :
    Instr.wellFormed Config.defaultParams (.rdReg 0x1000) = false ∧
      Instr.wellFormed Config.defaultParams (.rdReg 0x022) = false ∧
      Instr.wellFormed Config.defaultParams (.rdReg 0xFFC) = true := by decide

theorem test_wellFormed_winAccess :
    Instr.wellFormed Config.defaultParams (.winAccess .read .w16 0x100001) = false ∧
      Instr.wellFormed Config.defaultParams (.winAccess .read .w8 0x110000) = false ∧
      Instr.wellFormed Config.defaultParams (.winAccess .read .w32 0x10FFFC) = true ∧
      Instr.wellFormed Config.defaultParams (.winAccess .read .w8 0x23FFFF) = true := by decide

/-! ### The commands -/

theorem test_hufc_H1 : output (after .hufc (running 0x10 aaabbc 262144)) = blobH1 := by decide +kernel

/-- Vector H9: the lighter 0xFF goes left. -/
theorem test_hufc_H9 :
    output (after .hufc (running 0x10 [0, 0xFF, 0] 262144)) =
      [0, 0, 0, 0x0A, 0, 0, 0, 0, 2, 0xFF, 0, 0, 0, 1, 5, 0xA0] := by decide +kernel

theorem test_hufd_D1 : output (after .hufd (running 0x11 blobH1 262144)) = aaabbc := by decide +kernel

/-- Vector D18: a bit 1 at the synthetic root. -/
theorem test_hufd_D18 :
    (after .hufd (running 0x11 [0, 0, 0, 5, 0x41, 0, 0, 0, 1, 7, 0x80] 262144)).status = 0x00001826 ∧
      (after .hufd (running 0x11 [0, 0, 0, 5, 0x41, 0, 0, 0, 1, 7, 0x80] 262144)).errPos = 10 := by decide +kernel

/-- Vector Z7: the tie at position 5 goes to the oldest source. -/
theorem test_lzc_Z7 :
    output (after (.lzc 255) (running 0xFF20 [0x41, 0x42, 0x52, 0x41, 0x43, 0x41, 0x44, 0x41, 0x42, 0x52, 0x41] 262144)) =
      [0, 0, 0x41, 0, 0, 0x42, 0, 0, 0x52, 3, 1, 0x43, 5, 1, 0x44, 7, 3, 0x41] := by decide +kernel

/-- Vector Z11: overflow at the third token. -/
theorem test_lzc_Z11 :
    (after (.lzc 255) (running 0xFF20 aaabbc 8)).status = 0x00000336 ∧
      (after (.lzc 255) (running 0xFF20 aaabbc 8)).errPos = 4 := by decide +kernel

theorem test_lzd_Z1 :
    output (after .lzd (running 0x21 [0, 0, 0x41, 1, 2, 0x42, 1, 1, 0x43] 262144)) = aaabbc := by decide +kernel

/-- Vector L7: an offset past the output is refused also with length 0. -/
theorem test_lzd_L7 :
    (after .lzd (running 0x21 [0, 0, 0x41, 5, 0, 0x42] 262144)).status = 0x00002126 ∧
      (after .lzd (running 0x21 [0, 0, 0x41, 5, 0, 0x42] 262144)).errPos = 3 := by decide +kernel

/-! ### The control operations (vectors C1 to C17) -/

/-- Vector C1. -/
theorem test_start_C1 :
    let t := after (.start 1) { State.reset with cmd := 0x10, srcLen := 6, doneIp := true }
    t.hidden.cmdL = 0x10 ∧ t.hidden.lenL = 6 ∧ t.status = 1 ∧ t.doneIp = true := by decide

/-- Vector C2. -/
theorem test_start_C2 :
    let t := after (.start 1) { running 0x10 aaabbc 262144 with cmd := 0x21 }
    t.hidden.cmdL = 0x10 ∧ t.status = 1 := by decide

/-- Vector C3. -/
theorem test_sreset_C3 :
    let t := after (.sreset 3) (running 0x11 blobH1 262144)
    t.status = 0 ∧ t.src = (running 0x11 blobH1 262144).src ∧ t.dstDraw = 2 := by decide

/-- Vector C5. -/
theorem test_intack_C5 :
    let t := after (.intack 1) { State.reset with status := 2, doneIp := true, doneIe := true }
    t.doneIp = false ∧ t.irq = false ∧ t.done = true := by decide

/-- Vector C6. -/
theorem test_int_en_C6 : (after (.wrIntEn 1) { State.reset with doneIp := true }).irq = true := by decide

/-- Vector C17. -/
theorem test_cmd_C17 :
    let t := after (.wrCmdSrcLen .cmd 0x21) (running 0x10 aaabbc 262144)
    t.cmd = 0x21 ∧ t.hidden.cmdL = 0x10 := by decide

/-- Vector C8. -/
theorem test_rd_reg_C8 : (after (.rdReg 0x000) State.reset).resp = .data 0x48464C5A := by decide

/-- Vector C13. -/
theorem test_window_C13 :
    (after (.winAccess .read .w8 0x100003) (after (.winAccess (.write 0x42414141) .w32 0x100000) State.reset)).resp =
      .data 0x42 := by decide

/-- Vector C14. -/
theorem test_window_C14 :
    (after (.winAccess (.write 0x55) .w8 0x100000) (running 0x10 aaabbc 262144)).src =
      (running 0x10 aaabbc 262144).src := by decide

/-- Vector K5: a running command word 0. -/
theorem test_bad_command_K5 :
    let t := stateOf State.reset (step (running 0 aaabbc 262144))
    t.status = 0x00000116 ∧ t.errPos = 0 ∧ t.dstLen = 0 := by decide

/-! ### Witnesses: encoding and the step -/

theorem witness_DecodeOfEncodeIsTheInstruction :
    Instr.wellFormed Config.defaultParams (.winAccess (.write 7) .w32 0x23FFFC) = true ∧
      Instr.wellFormed Config.defaultParams (.start 0xFFFFFFFD) = true := by decide

/-- The reset state with one event to come. -/
def idleWith (e : Event) : State := { State.reset with events := [e] }

/-- A running command with events to come. -/
def busyWith (es : List Event) : State := { running 0x10 aaabbc 262144 with events := es }

theorem witness_StepRunsTheHostsInstruction :
    (idleWith (.host (write 0x010 1))).events = .host (write 0x010 1) :: [] ∧ (idleWith (.host (write 0x010 1))).rst = false ∧
      decode (idleWith (.host (write 0x010 1))).params (.access (write 0x010 1)) = .ok (.start 1) := by decide

theorem witness_StepRunsTheLatchedCommand :
    NextIsEngine (busyWith []) ∧ NextIsEngine (busyWith [.engine]) ∧ (busyWith [.engine]).busy = true ∧
      (busyWith [.engine]).rst = false ∧
      decode (busyWith [.engine]).params (.command (busyWith [.engine]).hidden.cmdL) = .ok .hufc :=
  ⟨.inl rfl, .inr rfl, by decide, by decide, by decide⟩

/-- Each of the three ways to be illegal. -/
theorem witness_IllegalCommandEndsAsBadCmd :
    NextIsEngine (running 0x30 [] 16) ∧ (running 0x30 [] 16).busy = true ∧ (running 0x30 [] 16).rst = false ∧
      ((running 0x30 [] 16).hidden.cmdL.toNat / 2 ^ 4 % 2 ^ 4 ≠ 1 ∧ (running 0x30 [] 16).hidden.cmdL.toNat / 2 ^ 4 % 2 ^ 4 ≠ 2) ∧
      (running 0x12 [] 16).hidden.cmdL.toNat / 2 % 2 ^ 3 ≠ 0 ∧ (running 0x10010 [] 16).hidden.cmdL.toNat / 2 ^ 16 ≠ 0 :=
  ⟨.inl rfl, by decide, by decide, by decide, by decide, by decide⟩

theorem witness_IdleEngineTurnChangesNothing :
    NextIsEngine (idleWith .engine) ∧ (idleWith .engine).busy = false ∧
      ({ busyWith [.engine] with rst := true } : State).rst = true :=
  ⟨.inr rfl, by decide, by decide⟩

theorem witness_PlacedWordIsRunNext :
    decodeTableWord 32 0xFF20 = some (.lzc 255) ∧ decodeTableWord 32 1 = some (.start 1) := by decide

/-! ### Witnesses: the invariant and the whole machine -/

/-- A state that meets the invariant, with a host write to come. -/
def liveState : State :=
  { State.reset with src := [(0, 0x41)], events := [.host { kind := .write 0x42, off := 0x10FFFF, width := .w8 }] }

theorem witness_StepKeepsTheInvariant :
    liveState.Inv ∧ step liveState = .next (stateOf liveState (step liveState)) :=
  ⟨⟨by decide, by decide, by decide, by decide, by decide, .inl rfl, by decide, by decide, by decide, by decide, by decide⟩,
    rfl⟩

theorem witness_OnlyAnIdleHostWriteChangesSrc :
    step liveState = .next (stateOf liveState (step liveState)) ∧
      (stateOf liveState (step liveState)).src ≠ liveState.src :=
  ⟨rfl, by decide⟩

/-- The next state of a step. -/
def stepped (s : State) : State := stateOf s (step s)

/-- One step for each of the listed events. -/
theorem witness_FlagsChangeOnlyByTheListedEvents :
    step (idleWith .engine) = .next (stepped (idleWith .engine)) ∧
      step (busyWith [.rst true]) = .next (stepped (busyWith [.rst true])) ∧
      step (busyWith [.host (write 0x010 2)]) = .next (stepped (busyWith [.host (write 0x010 2)])) ∧
      step (idleWith (.host (write 0x010 1))) = .next (stepped (idleWith (.host (write 0x010 1)))) ∧
      step (running 0x20 [] 16) = .next (stepped (running 0x20 [] 16)) ∧
      step (running 0x30 [] 16) = .next (stepped (running 0x30 [] 16)) ∧
      step (idleWith (.host (write 0x02C 1))) = .next (stepped (idleWith (.host (write 0x02C 1)))) :=
  ⟨rfl, rfl, rfl, rfl, rfl, rfl, rfl⟩

theorem witness_RunningCommandKeepsItsInputs :
    step (busyWith [.host (write 0x014 0x21)]) = .next (stepped (busyWith [.host (write 0x014 0x21)])) ∧
      (busyWith [.host (write 0x014 0x21)]).busy = true ∧ (stepped (busyWith [.host (write 0x014 0x21)])).busy = true :=
  ⟨rfl, by decide, by decide⟩

theorem witness_EveryRunningCommandEnds :
    (busyWith [.host (write 0x010 1), .engine]).busy = true ∧ (busyWith [.host (write 0x010 1), .engine]).rst = false ∧
      ∀ e ∈ (busyWith [.host (write 0x010 1), .engine]).events, e ≠ .rst true ∧ ∀ a, e = .host a → ∀ v,
        decode (busyWith [.host (write 0x010 1), .engine]).params (.access a) ≠ .ok (.sreset v) := by
  refine ⟨by decide, by decide, ?_⟩
  intro e he
  rcases List.mem_cons.1 he with rfl | he
  · refine ⟨by decide, ?_⟩
    rintro a ha v
    cases ha
    have h : decode (busyWith [.host (write 0x010 1), .engine]).params (.access (write 0x010 1)) = .ok (.start 1) := by decide
    rw [h]
    simp
  · rcases List.mem_cons.1 he with rfl | he
    · exact ⟨by decide, by simp⟩
    · cases he

/-! ### Witnesses: reset and control -/

theorem witness_ResetSetsTheRegisters : (2 : Word).getLsbD 1 = true ∧ (0xFFFFFFFF : Word).getLsbD 1 = true := by decide

theorem witness_ResetKeepsTheMemories :
    takeEvent (.rst true) State.reset = .next (State.reset.driveRst true) ∧ State.reset.busy = false ∧
      exec (.sreset 2) State.reset = .next (after (.sreset 2) State.reset) :=
  ⟨rfl, by decide, rfl⟩

theorem witness_SoftResetCompletes : (3 : Word).getLsbD 1 = true ∧ State.reset.busy = false := by decide

theorem witness_AssertedResetInputBlocksTheBlock : (State.reset.driveRst true).rst = true := by decide

theorem witness_CtrlWriteStartsOrResetsOrDoesNothing :
    State.reset.rst = false ∧ (2 : Word).getLsbD 1 = true ∧ (1 : Word).getLsbD 1 = false ∧ (1 : Word).getLsbD 0 = true ∧
      State.reset.busy = false ∧ (busyWith []).busy = true ∧ (busyWith []).rst = false ∧
      (0xFFFFFFFC : Word).getLsbD 1 = false ∧ (0xFFFFFFFC : Word).getLsbD 0 = false := by decide

theorem witness_StartIsAcceptedWhenIdle :
    (1 : Word) &&& 3 = 1 ∧ (0xFFFFFFFD : Word) &&& 3 = 1 ∧ State.reset.busy = false := by decide

theorem witness_StartIsDroppedWhenBusy : (busyWith []).busy = true := by decide

/-- Vector K12's length, one above SRC_CAP. -/
def tooLong : State := { State.reset with hidden := { Hidden.reset with lenL := 65537 }, status := statusBusy }

theorem witness_TooLongInputEndsAsSrcLenRange : tooLong.params.srcCap < tooLong.hidden.lenL.toNat := by decide

theorem witness_InterruptAcknowledge :
    isCommand .lzd = true ∧ (1 : Word).getLsbD 0 = true ∧ (0xFFFFFFFE : Word).getLsbD 0 = false ∧ State.reset.rst = false := by decide

theorem witness_CmdAndSrcLenWrites : State.reset.busy = false := by decide

theorem witness_RegisterReads :
    (0x030 ≤ (0x030 : Offset).toNat ∧ (0x030 : Offset).toNat ≤ 0xFFC ∧ (0x030 : Offset).toNat % 4 = 0) ∧
      0x030 ≤ (0xFFC : Offset).toNat ∧ (0xFFC : Offset).toNat ≤ 0xFFC ∧ (0xFFC : Offset).toNat % 4 = 0 := by decide

theorem witness_ReadOnlyAndReservedWritesAreIgnored :
    State.reset.rst = false ∧ 0x030 ≤ (0xFFC : Offset).toNat ∧ (0xFFC : Offset).toNat ≤ 0xFFC ∧
      (0xFFC : Offset).toNat % 4 = 0 := by decide

/-! ### Witnesses: the windows -/

/-- The first and the last word of SRC, and the last byte and the last half-word of DST. -/
theorem witness_WindowReadIsLittleEndian :
    State.reset.params.legal ∧ State.reset.busy = false ∧
      (0x100000 : Offset).toNat % widthBytes .w32 = 0 ∧ 0x100000 ≤ (0x100000 : Offset).toNat ∧
      (0x10FFFC : Offset).toNat % widthBytes .w32 = 0 ∧
      (0x10FFFC : Offset).toNat + widthBytes .w32 ≤ 0x100000 + State.reset.params.srcCap ∧
      (0x23FFFE : Offset).toNat % widthBytes .w16 = 0 ∧ 0x200000 ≤ (0x23FFFE : Offset).toNat ∧
      (0x23FFFE : Offset).toNat + widthBytes .w16 ≤ 0x200000 + State.reset.params.dstCap := by decide

theorem witness_WindowWriteIsLittleEndian :
    State.reset.params.legal ∧ State.reset.busy = false ∧ (0x10FFFF : Offset).toNat % widthBytes .w8 = 0 ∧
      0x100000 ≤ (0x10FFFF : Offset).toNat ∧
      (0x10FFFF : Offset).toNat + widthBytes .w8 ≤ 0x100000 + State.reset.params.srcCap ∧
      (0x200000 : Offset).toNat % widthBytes .w32 = 0 ∧ 0x200000 ≤ (0x200000 : Offset).toNat ∧
      (0x200000 : Offset).toNat + widthBytes .w32 ≤ 0x200000 + State.reset.params.dstCap := by decide

theorem witness_WindowAccessWhileBusy :
    (busyWith []).busy = true ∧ (windowTarget (busyWith []).params 0x200000 .w8).isSome = true ∧
      (windowTarget (busyWith []).params 0x10FFFC .w32).isSome = true := by decide

/-- The first unmapped byte after the register page, after SRC and after DST, and an access that runs past SRC. -/
theorem witness_UnmappedAccessGetsAnErrorResponse :
    ∀ a ∈ [({ kind := .read, off := 0x001000, width := .w8 } : Access), { kind := .read, off := 0x110000, width := .w8 },
        { kind := .write 1, off := 0x240000, width := .w32 }, { kind := .read, off := 0x10FFFE, width := .w32 }],
      ∃ k, k < widthBytes a.width ∧ ¬ Mapped State.reset.params (a.off.toNat + k) := by
  intro a ha
  fin_cases ha
  · exact ⟨0, by decide, by unfold Mapped; decide⟩
  · exact ⟨0, by decide, by unfold Mapped; decide⟩
  · exact ⟨0, by decide, by unfold Mapped; decide⟩
  · exact ⟨2, by decide, by unfold Mapped; decide⟩

/-- Vectors C10 and C12, and a misaligned register access. -/
theorem witness_MisalignedAccessGetsAnErrorResponse :
    ((0x020 : Offset).toNat < 0x1000 ∧ Width.w8 ≠ .w32) ∧ ((0xFFE : Offset).toNat < 0x1000 ∧ (0xFFE : Offset).toNat % 4 ≠ 0) ∧
      0x1000 ≤ (0x100002 : Offset).toNat ∧ (0x100002 : Offset).toNat % widthBytes .w32 ≠ 0 := by decide

theorem witness_ReadsHaveNoSideEffect :
    ({ kind := .read, off := 0x020, width := .w32 } : Access).kind = .read ∧
      hostTurn { kind := .read, off := 0x020, width := .w32 } State.reset =
        .next (stateOf State.reset (hostTurn { kind := .read, off := 0x020, width := .w32 } State.reset)) :=
  ⟨rfl, rfl⟩

/-! ### Witnesses: every command -/

/-- A completion of each kind the clauses name: success, SRC_LEN_RANGE in both directions, HUFC's OUT_OVERFLOW, another
error. -/
theorem witness_CommandFrame :
    isCommand .hufc = true ∧ isCommand .lzd = true ∧ (running 0x10 aaabbc 32).params.legal ∧
      (after .hufc (running 0x10 aaabbc 32)).status = 0x00000002 ∧ tooLong.params.legal ∧
      (after .hufc tooLong).status = 0x00000236 ∧ (after .lzd tooLong).status = 0x00000246 ∧
      (running 0x10 aaabbc 16).params.legal ∧ (after .hufc (running 0x10 aaabbc 16)).status = 0x00000336 ∧
      (after .lzd (running 0x21 [0] 16)).status = 0x00002026 := by decide +kernel

theorem witness_CommandDependsOnItsInputAlone :
    isCommand .hufc = true ∧
      (Fits (running 0x10 aaabbc 32) ↔ Fits { running 0x10 aaabbc 32 with cmd := 7, doneIe := true }) ∧
      isCommand .lzd = true ∧ (Fits tooLong ↔ Fits { tooLong with cmd := 7 }) ∧
      (∀ a, a < (running 0x10 aaabbc 32).hidden.lenL.toNat →
        (running 0x10 aaabbc 32).srcByte a = ({ running 0x10 aaabbc 32 with cmd := 7, doneIe := true } : State).srcByte a) ∧
      exec .hufc (running 0x10 aaabbc 32) = .next (after .hufc (running 0x10 aaabbc 32)) ∧
      (after .hufc (running 0x10 aaabbc 32)).status = 0x00000002 :=
  ⟨rfl, by unfold Fits; decide, rfl, by unfold Fits; decide, fun _ _ => rfl, exec_eq_after _ _, by decide +kernel⟩

theorem witness_EmptyInputGivesEmptyOutput : isCommand (.lzc 255) = true ∧ (running 0xFF20 [] 16).hidden.lenL = 0 := by decide

/-! ### Witnesses: Huffman -/

theorem witness_HufcCountsTheInput : Fits (running 0x10 aaabbc 32) ∧ (running 0x10 aaabbc 32).hidden.lenL ≠ 0 := by
  unfold Fits; decide

theorem tableOk_H1 : TableOk tableH1 := ⟨by simp [tableH1], by simp [tableH1], by simp [tableH1]⟩

theorem tableOk_single : TableOk [(0x41, 1)] := ⟨by simp, by simp, by simp⟩

theorem freqOf_H1 : Huffman.freqOf aaabbc = tableH1 := by decide +kernel

theorem witness_TreeMergesTheTwoLeastNodes : TableOk tableH1 ∧ 2 ≤ tableH1.length := ⟨tableOk_H1, by decide⟩

theorem witness_CodesArePrefixFreeAndComplete :
    (TableOk [(0x41, 1)] ∧ [((0x41 : Byte), (1 : Word))].length = 1) ∧ (TableOk tableH1 ∧ 2 ≤ tableH1.length) ∧
      ((0x41 : Byte), (3 : Word)) ∈ tableH1 ∧ ((0x42 : Byte), (2 : Word)) ∈ tableH1 ∧ (∀ e ∈ tableH1, e.1 ≠ 0x44) ∧
      255 ≤ (List.replicate 255 true).length ∧ aaabbc.length < 2 ^ 32 ∧ (∀ e ∈ Huffman.freqOf aaabbc, e.1 ≠ 0x44) :=
  ⟨⟨tableOk_single, rfl⟩, ⟨tableOk_H1, by decide⟩, by simp [tableH1], by simp [tableH1], by simp [tableH1],
    by rw [List.length_replicate], by decide, by rw [freqOf_H1]; simp [tableH1]⟩

theorem witness_HufcBlobLayout : aaabbc ≠ [] ∧ aaabbc.length < 2 ^ 32 := by decide

/-- Vector H12's two sides, with legal capacities. -/
theorem witness_HufcWritesItsBlobOrOverflows :
    (running 0x10 aaabbc 32).params.legal ∧ Fits (running 0x10 aaabbc 32) ∧ (running 0x10 aaabbc 32).hidden.lenL ≠ 0 ∧
      (Huffman.encoderBlob (Huffman.encoderTables Hidden.reset aaabbc) aaabbc).length ≤ 32 ∧
      (running 0x10 aaabbc 16).params.legal ∧
      16 < (Huffman.encoderBlob (Huffman.encoderTables Hidden.reset aaabbc) aaabbc).length := by
  unfold Fits; decide +kernel

theorem witness_HufcOfOneRepeatedByte :
    (running 0x10 [0x41, 0x41, 0x41, 0x41] 16).params.legal ∧ Fits (running 0x10 [0x41, 0x41, 0x41, 0x41] 16) ∧
      (running 0x10 [0x41, 0x41, 0x41, 0x41] 16).hidden.lenL ≠ 0 ∧
      (∀ a, a < (running 0x10 [0x41, 0x41, 0x41, 0x41] 16).hidden.lenL.toNat →
        (running 0x10 [0x41, 0x41, 0x41, 0x41] 16).srcByte a = 0x41) ∧
      10 + ((running 0x10 [0x41, 0x41, 0x41, 0x41] 16).hidden.lenL.toNat + 7) / 8 ≤ 16 := by
  unfold Fits; decide +kernel

/-- Vectors D7 to D10. -/
theorem witness_HufdHeaderChecks :
    Fits (running 0x11 [0] 16) ∧ (running 0x11 [0] 16).hidden.lenL.toNat = 1 ∧
      (running 0x11 [0, 0, 0, 0x0A, 0x41] 16).hidden.lenL.toNat - 4 < srcField (running 0x11 [0, 0, 0, 0x0A, 0x41] 16) 0 ∧
      srcField (running 0x11 [0, 0, 0, 5, 0x41, 0, 0, 0, 1] 16) 0 =
        (running 0x11 [0, 0, 0, 5, 0x41, 0, 0, 0, 1] 16).hidden.lenL.toNat - 4 ∧
      srcField (running 0x11 [0, 0, 0, 4, 0x41, 0, 0, 0, 1] 16) 0 <
        (running 0x11 [0, 0, 0, 4, 0x41, 0, 0, 0, 1] 16).hidden.lenL.toNat - 4 ∧
      srcField (running 0x11 [0, 0, 0, 4, 0x41, 0, 0, 0, 1] 16) 0 % 5 ≠ 0 := by
  unfold Fits; decide +kernel

/-- Vectors D11 (order, at entry 1) and D13 (count, at entry 0). -/
theorem witness_HufdTableChecks :
    let d11 := running 0x11 [0, 0, 0, 0x0A, 0x42, 0, 0, 0, 1, 0x41, 0, 0, 0, 1, 0, 0] 16
    let d13 := running 0x11 [0, 0, 0, 5, 0x41, 0, 0, 0, 0, 0, 0] 16
    (Fits d11 ∧ 4 ≤ d11.hidden.lenL.toNat ∧ srcField d11 0 < d11.hidden.lenL.toNat - 4 ∧ srcField d11 0 % 5 = 0 ∧
      1 < srcField d11 0 / 5 ∧ (∀ e', e' < 1 → EntryOk d11 e') ∧ entrySym d11 1 ≤ entrySym d11 0) ∧
      (Fits d13 ∧ srcField d13 0 < d13.hidden.lenL.toNat - 4 ∧ srcField d13 0 % 5 = 0 ∧ 0 < srcField d13 0 / 5 ∧
        entryCount d13 0 = 0) := by
  unfold Fits EntryOk; decide +kernel

/-- Vectors D14, D15, D17 and D3. -/
theorem witness_HufdPaddingAndEmptyTableChecks :
    let d14 := running 0x11 [0, 0, 0, 5, 0x41, 0, 0, 0, 1, 8, 0] 16
    let d15 := running 0x11 [0, 0, 0, 5, 0x41, 0, 0, 0, 1, 3] 16
    let d17 := running 0x11 [0, 0, 0, 0, 0, 0xFF] 16
    let d3 := running 0x11 [0, 0, 0, 0, 0] 16
    (Fits d14 ∧ srcField d14 0 < d14.hidden.lenL.toNat - 4 ∧ (∀ e, e < srcField d14 0 / 5 → EntryOk d14 e) ∧
      7 < (d14.srcByte (4 + srcField d14 0)).toNat) ∧
      (d15.hidden.lenL.toNat - 5 - srcField d15 0 = 0 ∧ (d15.srcByte (4 + srcField d15 0)).toNat ≠ 0) ∧
      (srcField d17 0 = 0 ∧ (d17.srcByte 4).toNat ≤ 7 ∧ 0 < d17.hidden.lenL.toNat - 5 - srcField d17 0) ∧
      (srcField d3 0 = 0 ∧ srcField d3 0 < d3.hidden.lenL.toNat - 4 ∧ (d3.srcByte 4).toNat = 0 ∧
        d3.hidden.lenL.toNat - 5 - srcField d3 0 = 0) := by
  unfold Fits EntryOk; decide +kernel

/-- The codes of "AAABBC" under vector H1's table: A = 0, B = 11, C = 10. -/
theorem coded_H1 : coded tableH1 aaabbc = [false, false, false, true, true, true, true, true, false] := by decide +kernel

theorem witness_HufdDecodesCodedBits :
    (running 0x11 blobH1 16).params.legal ∧ Fits (running 0x11 blobH1 16) ∧ TableOk tableH1 ∧
      (∀ b ∈ aaabbc, ∃ e ∈ tableH1, e.1 = b) ∧ Pads (coded tableH1 aaabbc) (List.replicate 7 false) ∧
      (running 0x11 blobH1 16).input = huffmanBlob tableH1 (coded tableH1 aaabbc) (List.replicate 7 false) ∧
      aaabbc.length ≤ 16 := by
  rw [coded_H1]
  exact ⟨by decide, by unfold Fits; decide, tableOk_H1, by decide +kernel, by unfold Pads; decide, by decide +kernel, by decide⟩

/-- Vector D18 with one symbol before the bad bit. -/
def badBits : List Byte := [0, 0, 0, 5, 0x41, 0, 0, 0, 1, 6, 0x40]

/-- Vector H1's table, the code of 'A' and a bit 1, which only begins a code. -/
def cutBits : List Byte := [0, 0, 0, 0x0F, 0x41, 0, 0, 0, 3, 0x42, 0, 0, 0, 2, 0x43, 0, 0, 0, 1, 6, 0x40]

theorem witness_HufdWalkFailures_badCode :
    Fits (running 0x11 badBits 16) ∧ TableOk [(0x41, 1)] ∧ Pads [false, true] (List.replicate 6 false) ∧
      (running 0x11 badBits 16).input = huffmanBlob [(0x41, 1)] [false, true] (List.replicate 6 false) ∧
      coded [(0x41, 1)] [0x41] ++ [true] <+: [false, true] :=
  ⟨by unfold Fits; decide, tableOk_single, by unfold Pads; decide, by decide +kernel, by decide +kernel⟩

theorem witness_HufdWalkFailures_truncated :
    Fits (running 0x11 cutBits 16) ∧ TableOk tableH1 ∧ Pads [false, true] (List.replicate 6 false) ∧
      (running 0x11 cutBits 16).input = huffmanBlob tableH1 [false, true] (List.replicate 6 false) ∧
      [false, true] = coded tableH1 [0x41] ++ [true] ∧ (0x42, 2) ∈ tableH1 ∧ [true] <+: codeOf tableH1 0x42 ∧
      [true] ≠ codeOf tableH1 0x42 :=
  ⟨by unfold Fits; decide, tableOk_H1, by unfold Pads; decide, by decide +kernel, by decide +kernel, by decide +kernel,
    by decide +kernel, by decide +kernel⟩

/-- Vector H1's blob with DST_CAP 4. -/
theorem witness_HufdWalkFailures_overflow :
    (running 0x11 blobH1 4).params.legal ∧ Fits (running 0x11 blobH1 4) ∧
      (running 0x11 blobH1 4).input =
        huffmanBlob tableH1 [false, false, false, true, true, true, true, true, false] (List.replicate 7 false) ∧
      [(0x41 : Byte), 0x41, 0x41, 0x42].length = (running 0x11 blobH1 4).params.dstCap ∧ (0x42, 2) ∈ tableH1 ∧
      coded tableH1 ([0x41, 0x41, 0x41, 0x42] ++ [0x42]) <+: [false, false, false, true, true, true, true, true, false] :=
  ⟨by decide, by unfold Fits; decide, by decide +kernel, by decide, by decide +kernel, by decide +kernel⟩

/-- A block that holds another block's output as its input. -/
def holdingOutput (c : Word) (t : State) (cap : Nat) : State := running c (output t) cap

theorem witness_HuffmanRoundTrip :
    let s := running 0x10 aaabbc 32
    let u := holdingOutput 0x11 (after .hufc s) 8
    s.params.legal ∧ u.params.legal ∧ exec .hufc s = .next (after .hufc s) ∧ (after .hufc s).status = 0x00000002 ∧
      HoldsOutputOf u (after .hufc s) ∧ (after .hufc s).dstLen.toNat ≤ u.params.srcCap ∧
      s.hidden.lenL.toNat ≤ u.params.dstCap := by
  refine ⟨by decide, by decide +kernel, exec_eq_after _ _, by decide +kernel, ?_, by decide +kernel, by decide +kernel⟩
  unfold HoldsOutputOf
  decide +kernel

/-! ### Witnesses: LZ77 -/

theorem witness_LzcEmitsTheSelectedMatches :
    (running 0xFF20 aaabbc 16).params.legal ∧ Fits (running 0xFF20 aaabbc 16) := by unfold Fits; decide

/-- "AB" with DST_CAP 4: the second token does not fit. -/
theorem witness_LzcOverflowsAtTheTokenThatDoesNotFit :
    Fits (running 0xFF20 [0x41, 0x42] 4) ∧
      EmittedUpTo (running 0xFF20 [0x41, 0x42] 4).input 255 1 [(0, 0, 0x41)] ∧
      1 < (running 0xFF20 [0x41, 0x42] 4).hidden.lenL.toNat ∧ 3 * [((0 : Nat), (0 : Nat), (0x41 : Byte))].length ≤ 4 ∧
      4 < 3 * [((0 : Nat), (0 : Nat), (0x41 : Byte))].length + 3 := by
  refine ⟨by unfold Fits; decide, ?_, by decide, by decide, by decide⟩
  refine EmittedUpTo.token (i := 0) (off := 0) (len := 0) .start (by decide) ?_ (by decide)
  exact ⟨by decide, fun j l _ hj => absurd hj (by omega), fun _ => rfl, fun h => absurd h (by decide)⟩

theorem witness_LzcTokenRanges :
    (running 0xFF20 aaabbc 16).params.legal ∧
      exec (.lzc 255) (running 0xFF20 aaabbc 16) = .next (after (.lzc 255) (running 0xFF20 aaabbc 16)) ∧
      (after (.lzc 255) (running 0xFF20 aaabbc 16)).status = 0x00000002 ∧
      3 * 2 < (after (.lzc 255) (running 0xFF20 aaabbc 16)).dstLen.toNat :=
  ⟨by decide, exec_eq_after _ _, by decide +kernel, by decide +kernel⟩

/-- Vector L3. -/
theorem witness_LzdLengthCheck :
    Fits (running 0x21 [0, 0, 0x41, 1] 16) ∧ (running 0x21 [0, 0, 0x41, 1] 16).hidden.lenL.toNat % 3 ≠ 0 := by
  unfold Fits; decide

/-- The token (0, 0, 'A') expands to "A". -/
theorem expands_A : Expands [(0, 0, 0x41)] [0x41] :=
  Expands.token (toks := []) (out := []) (copy := []) .empty (by decide) (fun _ => rfl) rfl
    (fun r h => absurd h (by simp))

/-- An overlapping copy: (0, 0, 'A') then (1, 2, 'B') expand to "AAAB". -/
theorem expands_AAAB : Expands [(0, 0, 0x41), (1, 2, 0x42)] [0x41, 0x41, 0x41, 0x42] :=
  Expands.token (toks := [(0, 0, 0x41)]) (out := [0x41]) (copy := [0x41, 0x41]) expands_A (by decide) (by decide) rfl
    (by decide)

theorem witness_LzdExpandsItsTokens :
    (running 0x21 [0, 0, 0x41, 1, 2, 0x42] 4).params.legal ∧ Fits (running 0x21 [0, 0, 0x41, 1, 2, 0x42] 4) ∧
      (running 0x21 [0, 0, 0x41, 1, 2, 0x42] 4).input = rawBytes [(0, 0, 0x41), (1, 2, 0x42)] ∧
      Expands [(0, 0, 0x41), (1, 2, 0x42)] [0x41, 0x41, 0x41, 0x42] ∧ [(0x41 : Byte), 0x41, 0x41, 0x42].length ≤ 4 :=
  ⟨by decide, by unfold Fits; decide, by decide, expands_AAAB, by decide⟩

/-- Vectors L6, L4's token after one byte, and L11. -/
theorem witness_LzdTokenChecks :
    Expands [(0, 0, 0x41)] [0x41] ∧
      (running 0x21 [0, 0, 0x41, 2, 1, 0x42] 16).input = rawBytes ([(0, 0, 0x41)] ++ (2, 1, 0x42) :: []) ∧
      Fits (running 0x21 [0, 0, 0x41, 2, 1, 0x42] 16) ∧ [(0x41 : Byte)].length < (2 : Byte).toNat ∧
      (running 0x21 [0, 0, 0x41, 0, 1, 0x42] 16).input = rawBytes ([(0, 0, 0x41)] ++ (0, 1, 0x42) :: []) ∧
      0 < (1 : Byte).toNat ∧
      (running 0x21 [0, 0, 0x41, 1, 255, 0x41] 256).input = rawBytes ([(0, 0, 0x41)] ++ (1, 255, 0x41) :: []) ∧
      (1 : Byte).toNat ≤ [(0x41 : Byte)].length ∧ 256 < [(0x41 : Byte)].length + (255 : Byte).toNat + 1 :=
  ⟨expands_A, by decide, by unfold Fits; decide, by decide, by decide, by decide, by decide, by decide, by decide⟩

theorem witness_Lz77RoundTrip :
    let s := running 0xFF20 aaabbc 16
    let u := holdingOutput 0x21 (after (.lzc 255) s) 8
    s.params.legal ∧ u.params.legal ∧ exec (.lzc 255) s = .next (after (.lzc 255) s) ∧
      (after (.lzc 255) s).status = 0x00000002 ∧ HoldsOutputOf u (after (.lzc 255) s) ∧
      (after (.lzc 255) s).dstLen.toNat ≤ u.params.srcCap ∧ s.hidden.lenL.toNat ≤ u.params.dstCap := by
  refine ⟨by decide, by decide +kernel, exec_eq_after _ _, by decide +kernel, ?_, by decide +kernel, by decide +kernel⟩
  unfold HoldsOutputOf
  decide +kernel

end Sys2Proof.Tests
end

section
/-!
PROOFS. The family 00_scope: what a step answers, and what a command's completion depends on. The rules of the engine's turn
come first, then the codecs' independence of the hidden state they start from, then the four statements.
-/

namespace Sys2Proof.Proofs

open Sys2Proof.Machine Sys2Proof.Claims

/-! ### The turns -/

/-- Where no command runs, or under reset, the engine does nothing (00_scope.md R17, 10_state.md R45). -/
theorem engineTurn_of_idle {s : State} (h : s.busy = false ∨ s.rst = true) : engineTurn s = .next s := by
  rcases engineTurn_cases s with ⟨-, ht⟩ | ⟨hr, hb, -⟩ | ⟨hr, hb, -⟩
  · exact ht
  · simp [hr, hb] at h
  · simp [hr, hb] at h

/-- An engine turn, scheduled or at the schedule's end, takes at most its own event from the schedule (log 1). -/
theorem step_of_nextIsEngine {s : State} (h : NextIsEngine s) :
    step s = engineTurn { s with events := s.events.tail } := by
  cases he : s.events with
  | nil =>
    have hs : ({ s with events := [] } : State) = s := by rw [← he]
    rw [step_nil he, List.tail_nil, hs]
  | cons e es =>
    obtain rfl : e = .engine := by simpa [NextIsEngine, he] using h
    rw [step_cons he]
    rfl

theorem engineTurn_answers_next (s : State) : ∃ t, engineTurn s = .next t := by
  rcases engineTurn_cases s with ⟨-, ht⟩ | ⟨-, -, i, -, ht⟩ | ⟨-, -, r, -, ht⟩
  · exact ⟨_, ht⟩
  · exact ht ▸ exec_answers_next i s
  · exact ⟨_, ht⟩

theorem hostTurn_answers_next (a : Access) (s : State) : ∃ t, hostTurn a s = .next t := by
  rcases hostTurn_cases a s with ⟨-, ht⟩ | ⟨-, i, -, ht⟩ | ⟨-, r, -, ht⟩
  · exact ⟨_, ht⟩
  · exact ht ▸ exec_answers_next i s
  · exact ⟨_, ht⟩

theorem takeEvent_answers_next (e : Event) (s : State) : ∃ t, takeEvent e s = .next t := by
  cases e with
  | host a => exact hostTurn_answers_next a s
  | engine => exact engineTurn_answers_next s
  | rst level => exact ⟨_, rfl⟩

/-! ### The codecs' completions do not depend on the hidden state they start from

What an earlier command left in the tables and working registers is overwritten before it is read. -/

/-- The completion a command's body gives depends on its input and the room for its output alone (00_scope.md R18). -/
def HiddenFree (body : Hidden → List Byte → Nat → Hidden × Completion) : Prop :=
  ∀ h h' x cap, (body h x cap).2 = (body h' x cap).2

theorem huffman_compress_hiddenFree : HiddenFree Huffman.compress := by
  intro h h' x cap
  have hblob : Huffman.encoderBlob (Huffman.encoderTables h x) x = Huffman.encoderBlob (Huffman.encoderTables h' x) x := rfl
  unfold Huffman.compress
  rw [hblob]
  split_ifs <;> rfl

/-- The tree walk reads the arena and its root of the hidden state, and nothing else. -/
theorem walkBits_completion_congr {h h' : Hidden} (hnode : h.node = h'.node) (hroot : h.root = h'.root)
    (cap first len : Nat) (bits : List Bool) (bp : Nat) (cur : BitVec 9) (out : List Byte) :
    (Huffman.walkBits h cap first len bits bp cur out).2 = (Huffman.walkBits h' cap first len bits bp cur out).2 := by
  induction bits generalizing bp cur out with
  | nil => simp only [Huffman.walkBits, hroot]
  | cons bit bits ih =>
    unfold Huffman.walkBits
    rw [hnode, hroot]
    cases Huffman.child h'.node cur bit with
    | none => rfl
    | some nxt =>
      cases hleaf : Huffman.leafSym h'.node nxt with
      | none => simpa [hleaf] using ih (bp + 1) nxt out
      | some sym =>
        by_cases hcap : out.length = cap
        · simp [hleaf, hcap]
        · simpa [hleaf, hcap] using ih (bp + 1) h'.root (out ++ [sym])

theorem decodeBody_completion_congr {h h' : Hidden} (hfreq : h.freq = h'.freq) (x : List Byte) (cap : Nat) :
    (Huffman.decodeBody h x cap).2 = (Huffman.decodeBody h' x cap).2 := by
  unfold Huffman.decodeBody
  dsimp only
  have hroot : (Huffman.setTables h h.freq).root = (Huffman.setTables h' h'.freq).root := by
    simp only [Huffman.setTables, hfreq]
  have hnode : (Huffman.setTables h h.freq).node = (Huffman.setTables h' h'.freq).node := by
    simp only [Huffman.setTables, hfreq]
  split_ifs
  · rfl
  · rfl
  · rfl
  · rw [hroot]
    exact walkBits_completion_congr hnode hroot ..

theorem huffman_decompress_hiddenFree : HiddenFree Huffman.decompress := by
  intro h h' x cap
  unfold Huffman.decompress
  dsimp only
  split_ifs
  case neg =>
    rcases Huffman.parseTable x (Huffman.tableLen x / 5) 0 [] with ⟨f, _ | ⟨c, q⟩⟩
    · exact decodeBody_completion_congr (h := { h with freq := f }) (h' := { h' with freq := f }) rfl x cap
    · rfl
  all_goals rfl

/-- Two searches that have found the same match so far; the scan registers may differ. -/
def SameBest (r r' : Search) : Prop := r.bestLen = r'.bestLen ∧ r.bestOff = r'.bestOff

theorem SameBest.tryOne {r r' : Search} (h : SameBest r r') (x : List Byte) (i j : Nat) :
    SameBest (Lz77.tryOne x i r j) (Lz77.tryOne x i r' j) := by
  unfold Lz77.tryOne
  rw [h.1]
  split_ifs
  · exact ⟨rfl, rfl⟩
  · exact ⟨rfl, h.2⟩

theorem SameBest.foldl {r r' : Search} (h : SameBest r r') (x : List Byte) (i : Nat) (js : List Nat) :
    SameBest (js.foldl (Lz77.tryOne x i) r) (js.foldl (Lz77.tryOne x i) r') := by
  induction js generalizing r r' with
  | nil => exact h
  | cons j js ih => exact ih (h.tryOne x i j)

/-- Every search starts from no match (41_lz77.md R163), so what it finds does not depend on the search before it. -/
theorem search_sameBest (x : List Byte) (w i : Nat) (r r' : Search) :
    SameBest (Lz77.search x w i r) (Lz77.search x w i r') := by
  have hclear : SameBest { r with bestLen := 0, bestOff := 0 } { r' with bestLen := 0, bestOff := 0 } := ⟨rfl, rfl⟩
  unfold Lz77.search
  split_ifs
  · exact hclear.foldl x i _
  · exact hclear

theorem SameBest.tokenBytes {r r' : Search} (h : SameBest r r') (x : List Byte) (i : Nat) :
    Lz77.tokenBytes x i r = Lz77.tokenBytes x i r' := by
  unfold Lz77.tokenBytes
  rw [h.1, h.2]

theorem encodeLoop_completion_congr (h h' : Hidden) (x : List Byte) (w cap fuel i : Nat) (r r' : Search)
    (out : List Byte) :
    (Lz77.encodeLoop h x w cap fuel i r out).2 = (Lz77.encodeLoop h' x w cap fuel i r' out).2 := by
  induction fuel generalizing i r r' out with
  | zero => rfl
  | succ fuel ih =>
    have hbest := search_sameBest x w i r r'
    unfold Lz77.encodeLoop
    split_ifs
    · rfl
    · rw [hbest.1, hbest.tokenBytes]
      exact ih ..
    · rfl

theorem lz77_compress_hiddenFree (w : Byte) : HiddenFree fun h x cap => Lz77.compress h x w cap :=
  fun h h' x cap => encodeLoop_completion_congr h h' x w.toNat cap x.length 0 _ _ []

theorem decodeLoop_completion_congr (h h' : Hidden) (cap : Nat) (x : List Byte) (t : Nat) (out : List Byte) :
    (Lz77.decodeLoop h cap x t out).2 = (Lz77.decodeLoop h' cap x t out).2 := by
  induction x, t, out using Lz77.decodeLoop.induct (cap := cap) with
  | case1 off len lit rest t out k c herr => simp [Lz77.decodeLoop, herr]
  | case2 off len lit rest t out hok ih => simpa [Lz77.decodeLoop, hok] using ih
  | case3 t out => rfl
  | case4 t out b => rfl
  | case5 t out b b' => rfl

theorem lz77_decompress_hiddenFree : HiddenFree Lz77.decompress := by
  intro h h' x cap
  unfold Lz77.decompress
  split_ifs
  · rfl
  · exact decodeLoop_completion_congr h h' cap x 0 []

/-! ### The one shape of the four commands -/

/-- A command: the length check with the kind of its direction (42_control.md R192), then its body, whose own errors have
the effect `e` on DST (60_exceptions.md R213). -/
def runCommand (k : ErrKind) (e : DstEffect) (body : Hidden → List Byte → Nat → Hidden × Completion) (s : State) : State :=
  if s.inputTooLong then s.raise k .srcLenRange 0 .kept else s.finish e (body s.hidden s.input s.params.dstCap)

/-- Every command is `runCommand` of a body that does not depend on the hidden state. -/
theorem exec_eq_runCommand {i : Instr} (hi : isCommand i = true) :
    ∃ k e body, HiddenFree body ∧ ∀ s, exec i s = .next (runCommand k e body s) := by
  cases i with
  | hufc =>
    exact ⟨_, _, _, huffman_compress_hiddenFree, fun s => (apply_ite Host.Outcome.next _ _ _).symm⟩
  | hufd =>
    exact ⟨_, _, _, huffman_decompress_hiddenFree, fun s => (apply_ite Host.Outcome.next _ _ _).symm⟩
  | lzc w =>
    exact ⟨_, _, _, lz77_compress_hiddenFree w, fun s => (apply_ite Host.Outcome.next _ _ _).symm⟩
  | lzd =>
    exact ⟨_, _, _, lz77_decompress_hiddenFree, fun s => (apply_ite Host.Outcome.next _ _ _).symm⟩
  | start | sreset | intack | wrIntEn | wrCmdSrcLen | rdReg | winAccess => cases hi

/-! ### Equal completions -/

/-- Two ends of a command show the host the same completion: the registers, and the output after a success. -/
def SameCompletion (t t' : State) : Prop :=
  t.status = t'.status ∧ t.dstLen = t'.dstLen ∧ t.errPos = t'.errPos ∧
    (t.status = 0x00000002 → ∀ a, a < t.dstLen.toNat → t.dstByte a = t'.dstByte a)

/-- An error completion sets STATUS.ERR, which a success completion leaves clear (10_state.md R31). -/
theorem statusError_ne_statusSuccess (k : ErrKind) (c : Cause) : statusError k c ≠ statusSuccess := by
  intro h
  have hbit : (statusError k c).getLsbD 2 = true := by simp [statusError]
  rw [h] at hbit
  exact absurd hbit (by decide)

theorem raise_sameCompletion (s s' : State) (k : ErrKind) (c : Cause) (pos : Nat) (e : DstEffect) :
    SameCompletion (s.raise k c pos e) (s'.raise k c pos e) := by
  refine ⟨by simp, by simp, by simp, fun h => ?_⟩
  rw [State.raise_status] at h
  exact absurd h (statusError_ne_statusSuccess k c)

theorem complete_sameCompletion (s s' : State) (out : List Byte) : SameCompletion (s.complete out) (s'.complete out) := by
  refine ⟨rfl, rfl, rfl, fun _ a ha => ?_⟩
  rw [State.complete_dstLen, BitVec.toNat_ofNat] at ha
  have hlt : a < out.length := ha.trans_le (Nat.mod_le _ _)
  rw [State.complete_dstByte, State.complete_dstByte, dif_pos hlt, dif_pos hlt]

theorem finish_sameCompletion (s s' : State) (e : DstEffect) {r r' : Hidden × Completion} (h : r.2 = r'.2) :
    SameCompletion (s.finish e r) (s'.finish e r') := by
  obtain ⟨hid, c⟩ := r
  obtain ⟨hid', c'⟩ := r'
  obtain rfl : c = c' := h
  cases c with
  | success out => exact complete_sameCompletion _ _ out
  | error k c pos => exact raise_sameCompletion _ _ k c pos e

theorem input_congr {s s' : State} (hlen : s.hidden.lenL = s'.hidden.lenL)
    (hsrc : ∀ a, a < s.hidden.lenL.toNat → s.srcByte a = s'.srcByte a) : s.input = s'.input := by
  unfold State.input
  rw [← hlen]
  exact List.map_congr_left fun a ha => hsrc a (List.mem_range.1 ha)

theorem inputTooLong_congr {s s' : State} (h : Fits s ↔ Fits s') : s.inputTooLong = s'.inputTooLong := by
  rw [Bool.eq_iff_iff, State.inputTooLong_iff, State.inputTooLong_iff, ← not_le, ← not_le]
  exact not_congr h

theorem runCommand_sameCompletion {body : Hidden → List Byte → Nat → Hidden × Completion} (hbody : HiddenFree body)
    (k : ErrKind) (e : DstEffect) {s s' : State} (hfits : Fits s ↔ Fits s') (hinput : s.input = s'.input)
    (hcap : s.params.dstCap = s'.params.dstCap) :
    SameCompletion (runCommand k e body s) (runCommand k e body s') := by
  unfold runCommand
  rw [inputTooLong_congr hfits, hinput, hcap]
  split_ifs
  · exact raise_sameCompletion s s' k _ 0 .kept
  · exact finish_sameCompletion s s' e (hbody ..)

/-! ### The statements -/

/-- Settles O37: every command's body is independent of the hidden state, and its end shows the body's completion alone. -/
theorem commandDependsOnItsInputAlone : Obligations.CommandDependsOnItsInputAlone := by
  intro s s' t t' i hi hfits hlen hcap hsrc ht ht'
  obtain ⟨k, e, body, hbody, hexec⟩ := exec_eq_runCommand hi
  obtain rfl : runCommand k e body s = t := Host.Outcome.next.inj ((hexec s).symm.trans ht)
  obtain rfl : runCommand k e body s' = t' := Host.Outcome.next.inj ((hexec s').symm.trans ht')
  exact runCommand_sameCompletion hbody k e hfits (input_congr hlen hsrc) hcap

/-- Settles O5: the schedule's first event is the access, and outside reset the host's turn runs what it decodes to. -/
theorem stepRunsTheHostsInstruction : Obligations.StepRunsTheHostsInstruction := by
  intro s a es i hevents hrst hdecode
  rw [step_cons hevents]
  show hostTurn a { s with events := es } = _
  rcases hostTurn_cases a { s with events := es } with ⟨hr, -⟩ | ⟨-, j, hj, ht⟩ | ⟨-, r, hr, -⟩
  · exact absurd (hrst.symm.trans hr) Bool.false_ne_true
  · obtain rfl : i = j := Except.ok.inj (hdecode.symm.trans hj)
    exact ht
  · cases hdecode.symm.trans hr

/-- Settles O8: an engine turn takes its own event, and an idle one does nothing. -/
theorem idleEngineTurnChangesNothing : Obligations.IdleEngineTurnChangesNothing :=
  fun _ hnext hidle => (step_of_nextIsEngine hnext).trans (engineTurn_of_idle hidle)

/-- Settles O10: by the schedule; every event, and the engine's turn at its end, answers a next state. -/
theorem everyStepAnswersANextState : Obligations.EveryStepAnswersANextState := by
  intro s
  show ∃ t, step s = .next t
  cases he : s.events with
  | nil => exact step_nil he ▸ engineTurn_answers_next s
  | cons e es => exact step_cons he ▸ takeEvent_answers_next e _

end Sys2Proof.Proofs
end

section
/-!
PROOFS. The family 10_state: what one step can change, and the invariant. What a step can do is said once per agent: the
effects of a host access, and the ends of a command, which rest on what each codec's body can end with. Then come the
invariant per operation and the seven statements.
-/

namespace Sys2Proof.Proofs

open Sys2Proof.Machine Sys2Proof.Claims

/-! ### What an access decodes to -/

theorem encode_of_decodeRegWrite {off : Offset} {v : Word} {i : Instr} (h : decodeRegWrite off v = .ok i) :
    encode i = write32 off v := by
  unfold decodeRegWrite at h
  split_ifs at h
  all_goals cases h
  all_goals subst off; rfl

/-- An access that decodes to an instruction is that instruction's encoding. -/
theorem encode_of_decodeAccess {p : Params} {a : Access} {i : Instr} (h : decodeAccess p a = .ok i) :
    encode i = .access a := by
  obtain ⟨k, off, w⟩ := a
  unfold decodeAccess at h
  cases hr : regionOf p off.toNat (widthBytes w) with
  | unmapped => simp [hr] at h
  | src a =>
    simp only [hr] at h
    split_ifs at h
    obtain rfl := Except.ok.inj h
    rfl
  | dst a =>
    simp only [hr] at h
    split_ifs at h
    obtain rfl := Except.ok.inj h
    rfl
  | registers =>
    simp only [hr] at h
    split_ifs at h with hok
    obtain ⟨rfl, -, -⟩ := (registerAccessOk_iff p off w).1 hok
    cases k with
    | read =>
      obtain rfl := Except.ok.inj h
      rfl
    | write v => exact encode_of_decodeRegWrite h

theorem isCommand_of_decodeCommand {c : Word} {i : Instr} (h : decodeCommand c = .ok i) : isCommand i = true := by
  unfold decodeCommand at h
  split_ifs at h <;> obtain rfl := Except.ok.inj h <;> rfl

/-! ### What a host access can do -/

/-- The next states of a host access (20_memory.md R61 to R71, 42_control.md R190 to R199), each with the access that leads
to it. -/
inductive HostEffect (s : State) : Access → State → Prop where
  /-- A response and nothing else. -/
  | answer (a : Access) (r : Response) : HostEffect s a (s.respond r)
  /-- A START acceptance (42_control.md R192). -/
  | accept (v : Word) : v.getLsbD 1 = false → v.getLsbD 0 = true → s.busy = false →
      HostEffect s (write 0x010 v) (s.accept.respond .ok)
  /-- An SRESET (42_control.md R194). -/
  | reset (v : Word) : v.getLsbD 1 = true → HostEffect s (write 0x010 v) (s.resetBlock.respond .ok)
  /-- An INTACK (42_control.md R195). -/
  | acknowledge (v : Word) : v.getLsbD 0 = true → HostEffect s (write 0x02C v) (s.acknowledge.respond .ok)
  /-- A write of INT_EN, CMD or SRC_LEN (42_control.md R196, R197). -/
  | register (a : Access) (cmd srcLen : Word) (ie : Bool) :
      HostEffect s a ({ s with cmd := cmd, srcLen := srcLen, doneIe := ie }.respond .ok)
  /-- A window read while a command runs (20_memory.md R68). -/
  | freeRead (a : Access) (v : Word) : s.busy = true → HostEffect s a (s.draw.respond (.data v))
  /-- A window write that takes effect (20_memory.md R65, R68). -/
  | window (v : Word) (w : Width) (off : Offset) (t : WindowTarget) : s.rst = false → s.busy = false →
      windowTarget s.params off w = some t →
      HostEffect s { kind := .write v, off := off, width := w } ((s.writeWindow t (leBytes (widthBytes w) v)).respond .ok)

theorem exec_hostEffect {a : Access} {s t : State} {i : Instr} (hrst : s.rst = false) (ha : encode i = .access a)
    (h : exec i s = .next t) : HostEffect s a t := by
  cases i with
  | hufc | hufd | lzc | lzd => cases ha
  | start v =>
    obtain rfl := Encoding.access.inj ha
    simp only [exec, execStart] at h
    split_ifs at h with hv <;> obtain rfl := Host.Outcome.next.inj h
    · simp only [Bool.and_eq_true, Bool.not_eq_true'] at hv
      obtain ⟨⟨h0, h1⟩, hidle⟩ := hv
      exact .accept v h1 h0 hidle
    · exact .answer _ _
  | sreset v =>
    obtain rfl := Encoding.access.inj ha
    simp only [exec, execSreset] at h
    split_ifs at h with hv <;> obtain rfl := Host.Outcome.next.inj h
    · exact .reset v hv
    · exact .answer _ _
  | intack v =>
    obtain rfl := Encoding.access.inj ha
    simp only [exec, execIntack] at h
    split_ifs at h with hv <;> obtain rfl := Host.Outcome.next.inj h
    · exact .acknowledge v hv
    · exact .answer _ _
  | wrIntEn v =>
    obtain rfl := Host.Outcome.next.inj h
    exact .register a s.cmd s.srcLen _
  | wrCmdSrcLen r v =>
    cases r <;> obtain rfl := Host.Outcome.next.inj h
    · exact .register a v s.srcLen s.doneIe
    · exact .register a s.cmd v s.doneIe
  | rdReg off =>
    simp only [exec, execRdReg] at h
    split_ifs at h <;> obtain rfl := Host.Outcome.next.inj h <;> exact .answer _ _
  | winAccess k w off =>
    obtain rfl := Encoding.access.inj ha
    rcases execWinAccess_cases k w off s with
      ⟨-, he⟩ | ⟨tgt, htgt, ⟨-, hb, he⟩ | ⟨-, -, he⟩ | ⟨v, -, -, he⟩ | ⟨v, rfl, hb, he⟩⟩ <;>
      obtain rfl := Host.Outcome.next.inj (he.symm.trans h)
    · exact .answer _ _
    · exact .freeRead _ _ hb
    · exact .answer _ _
    · exact .answer _ _
    · exact .window v w off tgt hrst hb htgt

theorem hostTurn_effect {a : Access} {s t : State} (h : hostTurn a s = .next t) : HostEffect s a t := by
  rcases hostTurn_cases a s with ⟨-, he⟩ | ⟨hrst, i, hi, he⟩ | ⟨-, r, -, he⟩
  · obtain rfl := Host.Outcome.next.inj (he.symm.trans h)
    exact .answer _ _
  · exact exec_hostEffect hrst (encode_of_decodeAccess hi) (he.symm.trans h)
  · obtain rfl := Host.Outcome.next.inj (he.symm.trans h)
    rcases rejectedAccess_eq r s with hr | hr <;> exact hr ▸ .answer _ _

/-! ### What the codecs' bodies can end with -/

/-- A completion of a body on `len` input bytes with `cap` bytes of DST: an output that fits, or an error under one of its
cause's kinds at an index into the input or its length (60_exceptions.md R211, R212). SRC_LEN_RANGE is not a body's. -/
def CompletionWithin (len cap : Nat) : Completion → Prop
  | .success out => out.length ≤ cap
  | .error k c pos => k ∈ causeKinds c ∧ c ≠ .srcLenRange ∧ pos ≤ len

/-- A body's end: the latch kept (10_state.md R39), the completion within its bounds. -/
structure EndsWithin (h : Hidden) (len cap : Nat) (r : Hidden × Completion) : Prop where
  cmdL : r.1.cmdL = h.cmdL
  lenL : r.1.lenL = h.lenL
  completion : CompletionWithin len cap r.2

theorem endsWithin_success {h h' : Hidden} {len cap : Nat} {out : List Byte} (hcmd : h'.cmdL = h.cmdL)
    (hlen : h'.lenL = h.lenL) (hout : out.length ≤ cap) : EndsWithin h len cap (h', .success out) :=
  ⟨hcmd, hlen, hout⟩

theorem endsWithin_error {h h' : Hidden} {len cap : Nat} {k : ErrKind} {c : Cause} {pos : Nat} (hcmd : h'.cmdL = h.cmdL)
    (hlen : h'.lenL = h.lenL) (hk : k ∈ causeKinds c) (hc : c ≠ .srcLenRange) (hpos : pos ≤ len) :
    EndsWithin h len cap (h', .error k c pos) :=
  ⟨hcmd, hlen, hk, hc, hpos⟩

theorem huffman_compress_endsWithin (h : Hidden) (x : List Byte) (cap : Nat) :
    EndsWithin h x.length cap (Huffman.compress h x cap) := by
  unfold Huffman.compress
  split_ifs with hx hcap
  · exact endsWithin_success rfl rfl (Nat.zero_le _)
  · exact endsWithin_error rfl rfl (by decide) (by decide) (Nat.zero_le _)
  · exact endsWithin_success rfl rfl (not_lt.1 hcap)

/-- The walk's positions stay inside the blob while the bits left are at most those of its packed bytes. -/
theorem walkBits_endsWithin (h : Hidden) {cap first len : Nat} (bits : List Bool) {bp : Nat} (cur : BitVec 9)
    {out : List Byte} (hbits : first + (bp + bits.length + 7) / 8 ≤ len) (hout : out.length ≤ cap) :
    EndsWithin h len cap (Huffman.walkBits h cap first len bits bp cur out) := by
  induction bits generalizing bp cur out with
  | nil =>
    unfold Huffman.walkBits
    split_ifs
    · exact endsWithin_success rfl rfl hout
    · exact endsWithin_error rfl rfl (by decide) (by decide) le_rfl
  | cons bit bits ih =>
    simp only [List.length_cons] at hbits
    have hpos : first + bp / 8 ≤ len := by omega
    have hrest : first + (bp + 1 + bits.length + 7) / 8 ≤ len := by omega
    unfold Huffman.walkBits
    cases Huffman.child h.node cur bit with
    | none => exact endsWithin_error rfl rfl (by decide) (by decide) hpos
    | some nxt =>
      cases hleaf : Huffman.leafSym h.node nxt with
      | none => simpa [hleaf] using ih nxt hrest hout
      | some sym =>
        by_cases hcap : out.length = cap
        · simp only [hleaf, if_pos hcap]
          exact endsWithin_error rfl rfl (by decide) (by decide) hpos
        · have hout' : (out ++ [sym]).length ≤ cap := by
            rw [List.length_append, List.length_singleton]
            omega
          simpa [hleaf, hcap] using ih h.root hrest hout'

/-- A failing entry is one of those parsed (40_huffman.md R133), and its cause one of the two that name an entry. -/
theorem parseTable_error {x : List Byte} {left e : Nat} {f f' : FreqTable} {c : Cause} {q : Nat}
    (h : Huffman.parseTable x left e f = (f', some (c, q))) :
    (c = .hufTableOrder ∨ c = .hufTableZero) ∧ q + 5 ≤ 4 + 5 * (e + left) := by
  induction left generalizing e f with
  | zero => simp [Huffman.parseTable] at h
  | succ left ih =>
    unfold Huffman.parseTable at h
    split_ifs at h
    · simp only [Prod.mk.injEq, Option.some.injEq] at h
      obtain ⟨-, rfl, rfl⟩ := h
      exact ⟨.inl rfl, by omega⟩
    · simp only [Prod.mk.injEq, Option.some.injEq] at h
      obtain ⟨-, rfl, rfl⟩ := h
      exact ⟨.inr rfl, by omega⟩
    · obtain ⟨hc, hq⟩ := ih h
      exact ⟨hc, by omega⟩

theorem length_byteBits (b : Byte) : (byteBits b).length = 8 := by
  simp [byteBits]

theorem length_unpackBits (x : List Byte) : (unpackBits x).length = 8 * x.length := by
  simp [unpackBits, List.length_flatMap, length_byteBits, Nat.mul_comm]

theorem length_packedBits_le (x : List Byte) :
    (Huffman.packedBits x).length ≤ 8 * (x.length - (5 + Huffman.tableLen x)) := by
  unfold Huffman.packedBits
  rw [List.length_take, length_unpackBits, List.length_drop]
  exact min_le_right _ _

theorem decodeBody_endsWithin (h : Hidden) (x : List Byte) (cap : Nat) (hx : 5 + Huffman.tableLen x ≤ x.length) :
    EndsWithin h x.length cap (Huffman.decodeBody h x cap) := by
  have hbits := length_packedBits_le x
  unfold Huffman.decodeBody
  dsimp only
  split_ifs
  · exact endsWithin_error rfl rfl (by decide) (by decide) (by omega)
  · exact endsWithin_error rfl rfl (by decide) (by decide) hx
  · exact endsWithin_success rfl rfl (Nat.zero_le _)
  · obtain ⟨hcmd, hlen, hend⟩ := walkBits_endsWithin (Huffman.setTables h h.freq) (cap := cap) (bp := 0) (out := [])
      (Huffman.packedBits x) (Huffman.setTables h h.freq).root
      (show 5 + Huffman.tableLen x + _ ≤ x.length by omega) (Nat.zero_le _)
    exact ⟨hcmd, hlen, hend⟩

theorem huffman_decompress_endsWithin (h : Hidden) (x : List Byte) (cap : Nat) :
    EndsWithin h x.length cap (Huffman.decompress h x cap) := by
  unfold Huffman.decompress
  dsimp only
  split_ifs with hnil hshort hover hpad hformat
  · exact endsWithin_success rfl rfl (Nat.zero_le _)
  · exact endsWithin_error rfl rfl (by decide) (by decide) (Nat.zero_le _)
  · exact endsWithin_error rfl rfl (by decide) (by decide) (Nat.zero_le _)
  · exact endsWithin_error rfl rfl (by decide) (by decide) le_rfl
  · exact endsWithin_error rfl rfl (by decide) (by decide) (Nat.zero_le _)
  · rcases hparse : Huffman.parseTable x (Huffman.tableLen x / 5) 0 [] with ⟨f, _ | ⟨c, q⟩⟩
    · obtain ⟨hcmd, hlen, hend⟩ := decodeBody_endsWithin { h with freq := f } x cap (by omega)
      exact ⟨hcmd, hlen, hend⟩
    · obtain ⟨rfl | rfl, hq⟩ := parseTable_error hparse <;>
        exact endsWithin_error rfl rfl (by decide) (by decide) (by omega)

theorem encodeLoop_endsWithin (h : Hidden) (x : List Byte) (w : Nat) {cap : Nat} (fuel i : Nat) (r : Search)
    {out : List Byte} (hout : out.length ≤ cap) :
    EndsWithin h x.length cap (Lz77.encodeLoop h x w cap fuel i r out) := by
  induction fuel generalizing i r out with
  | zero => exact endsWithin_success rfl rfl hout
  | succ fuel ih =>
    unfold Lz77.encodeLoop
    split_ifs with hi hcap
    · exact endsWithin_error rfl rfl (by decide) (by decide) hi.le
    · exact ih _ _ (by simpa [Lz77.tokenBytes] using hcap)
    · exact endsWithin_success rfl rfl hout

theorem length_copyBytes (st len r : Nat) (out : List Byte) :
    (Lz77.copyBytes st len r out).length = out.length + len := by
  induction len generalizing r out with
  | zero => rfl
  | succ len ih =>
    rw [Lz77.copyBytes, ih, List.length_append, List.length_singleton]
    omega

theorem length_applyToken (off len lit : Byte) (out : List Byte) :
    (Lz77.applyToken off len lit out).length = out.length + len.toNat + 1 := by
  simp [Lz77.applyToken, length_copyBytes]

theorem tokenError_kind {cap : Nat} {off len : Byte} {o : Nat} {k : ErrKind} {c : Cause}
    (h : Lz77.tokenError cap off len o = some (k, c)) : k ∈ causeKinds c ∧ c ≠ .srcLenRange := by
  unfold Lz77.tokenError at h
  split_ifs at h <;> cases h <;> decide

theorem room_of_tokenError_none {cap : Nat} {off len : Byte} {o : Nat} (h : Lz77.tokenError cap off len o = none) :
    o + len.toNat + 1 ≤ cap := by
  unfold Lz77.tokenError at h
  split_ifs at h with h1 h2 h3
  exact not_lt.1 h3

theorem decodeLoop_endsWithin (h : Hidden) {cap n : Nat} (x : List Byte) (t : Nat) (out : List Byte)
    (hn : 3 * t + x.length ≤ n) (hout : out.length ≤ cap) :
    EndsWithin h n cap (Lz77.decodeLoop h cap x t out) := by
  induction x, t, out using Lz77.decodeLoop.induct (cap := cap) with
  | case1 off len lit rest t out k c herr =>
    obtain ⟨hk, hc⟩ := tokenError_kind herr
    have hpos : 3 * t ≤ n := by omega
    simp only [Lz77.decodeLoop, herr]
    exact endsWithin_error rfl rfl hk hc hpos
  | case2 off len lit rest t out hok ih =>
    simp only [List.length_cons] at hn
    have hout' : (Lz77.applyToken off len lit out).length ≤ cap :=
      (length_applyToken off len lit out).trans_le (room_of_tokenError_none hok)
    simpa [Lz77.decodeLoop, hok] using ih (by omega) hout'
  | case3 t out => exact endsWithin_success rfl rfl hout
  | case4 t out b => exact endsWithin_success rfl rfl hout
  | case5 t out b b' => exact endsWithin_success rfl rfl hout

theorem lz77_decompress_endsWithin (h : Hidden) (x : List Byte) (cap : Nat) :
    EndsWithin h x.length cap (Lz77.decompress h x cap) := by
  unfold Lz77.decompress
  split_ifs
  · exact endsWithin_error rfl rfl (by decide) (by decide) (Nat.sub_le _ _)
  · exact decodeLoop_endsWithin h x 0 [] (by omega) (Nat.zero_le _)

/-! ### How a command ends -/

/-- What a command's own errors leave in DST (60_exceptions.md R213): HUFC checks the length of its blob before it writes. -/
def ownEffect : Instr → DstEffect
  | .hufc => .kept
  | _ => .lost

/-- The ends of a running command whose own errors have the effect `own` on DST. -/
inductive CommandEnd (s : State) (own : DstEffect) : State → Prop where
  /-- A success completion (42_control.md R193). -/
  | success (h : Hidden) (out : List Byte) : h.cmdL = s.hidden.cmdL → h.lenL = s.hidden.lenL →
      out.length ≤ s.params.dstCap → CommandEnd s own ((s.setHidden h).complete out)
  /-- An error completion (60_exceptions.md R213). -/
  | error (h : Hidden) (k : ErrKind) (c : Cause) (pos : Nat) (e : DstEffect) : h.cmdL = s.hidden.cmdL →
      h.lenL = s.hidden.lenL → k ∈ causeKinds c → pos ≤ s.hidden.lenL.toNat →
      e = .kept ∨ (e = own ∧ c ≠ .srcLenRange) → CommandEnd s own ((s.setHidden h).raise k c pos e)

theorem finish_commandEnd {s : State} {r : Hidden × Completion} (e : DstEffect)
    (hr : EndsWithin s.hidden s.input.length s.params.dstCap r) : CommandEnd s e (s.finish e r) := by
  obtain ⟨h, out | ⟨k, c, pos⟩⟩ := r <;> obtain ⟨hcmd, hlen, hend⟩ := hr
  · exact .success h out hcmd hlen hend
  · obtain ⟨hk, hc, hpos⟩ := hend
    exact .error h k c pos e hcmd hlen hk (hpos.trans_eq s.input_length) (.inr ⟨rfl, hc⟩)

theorem runCommand_commandEnd {k : ErrKind} {body : Hidden → List Byte → Nat → Hidden × Completion} (s : State)
    (e : DstEffect) (hk : k ∈ causeKinds .srcLenRange) (hbody : ∀ h x cap, EndsWithin h x.length cap (body h x cap)) :
    CommandEnd s e (runCommand k e body s) := by
  unfold runCommand
  split_ifs
  · exact .error s.hidden k .srcLenRange 0 .kept rfl rfl hk (Nat.zero_le _) (.inl rfl)
  · exact finish_commandEnd e (hbody ..)

/-- Every command ends in every state. -/
theorem exec_commandEnd {i : Instr} (hi : isCommand i = true) (s : State) :
    ∃ t, exec i s = .next t ∧ CommandEnd s (ownEffect i) t := by
  cases i with
  | hufc =>
    exact ⟨_, (apply_ite Host.Outcome.next _ _ _).symm,
      runCommand_commandEnd s .kept (k := .compressionFailed) (by decide) huffman_compress_endsWithin⟩
  | hufd =>
    exact ⟨_, (apply_ite Host.Outcome.next _ _ _).symm,
      runCommand_commandEnd s .lost (k := .decompressionFailed) (by decide) huffman_decompress_endsWithin⟩
  | lzc w =>
    exact ⟨_, (apply_ite Host.Outcome.next _ _ _).symm,
      runCommand_commandEnd s .lost (k := .compressionFailed) (by decide) fun h x cap =>
        encodeLoop_endsWithin h x w.toNat (cap := cap) x.length 0 (Lz77.searchOf h) (out := []) (Nat.zero_le cap)⟩
  | lzd =>
    exact ⟨_, (apply_ite Host.Outcome.next _ _ _).symm,
      runCommand_commandEnd s .lost (k := .decompressionFailed) (by decide) lz77_decompress_endsWithin⟩
  | start | sreset | intack | wrIntEn | wrCmdSrcLen | rdReg | winAccess => cases hi

theorem badCommand_commandEnd (s : State) : CommandEnd s .kept (badCommand s) :=
  .error s.hidden .unsupportedAlgorithm .badCmd 0 .kept rfl rfl (by decide) (Nat.zero_le _) (.inl rfl)

/-- The engine's turn does nothing or ends the running command. -/
theorem engineTurn_effect {s t : State} (h : engineTurn s = .next t) :
    t = s ∨ (s.busy = true ∧ ∃ own, CommandEnd s own t) := by
  rcases engineTurn_cases s with ⟨-, he⟩ | ⟨-, hb, i, hi, he⟩ | ⟨-, hb, r, -, he⟩
  · exact .inl (Host.Outcome.next.inj (h.symm.trans he))
  · obtain ⟨u, hu, hend⟩ := exec_commandEnd (isCommand_of_decodeCommand hi) s
    obtain rfl : u = t := Host.Outcome.next.inj (hu.symm.trans (he.symm.trans h))
    exact .inr ⟨hb, _, hend⟩
  · obtain rfl := Host.Outcome.next.inj (he.symm.trans h)
    exact .inr ⟨hb, _, badCommand_commandEnd s⟩

/-! ### What one step can do -/

/-- The state with the schedule's first event taken. -/
def advance (s : State) : State := { s with events := s.events.tail }

/-- A step is the effect of a host access, of the engine's turn or of a level of rst. -/
theorem step_effect {s t : State} (h : step s = .next t) :
    (∃ a, s.events.head? = some (.host a) ∧ HostEffect (advance s) a t) ∨
      (NextIsEngine s ∧ (t = advance s ∨ (s.busy = true ∧ ∃ own, CommandEnd (advance s) own t))) ∨
      ∃ level, s.events.head? = some (.rst level) ∧ t = (advance s).driveRst level := by
  by_cases hn : NextIsEngine s
  · rw [step_of_nextIsEngine hn] at h
    exact .inr (.inl ⟨hn, engineTurn_effect h⟩)
  · cases he : s.events with
    | nil => simp [NextIsEngine, he] at hn
    | cons e es =>
      have hadv : advance s = { s with events := es } := by rw [advance, he, List.tail_cons]
      rw [step_cons he, ← hadv] at h
      cases e with
      | host a => exact .inl ⟨a, rfl, hostTurn_effect h⟩
      | engine => simp [NextIsEngine, he] at hn
      | rst level => exact .inr (.inr ⟨level, rfl, (Host.Outcome.next.inj h).symm⟩)

/-! ### STATUS after a completion -/

theorem statusSuccess_bits :
    statusSuccess.getLsbD 0 = false ∧ statusSuccess.getLsbD 1 = true ∧ statusSuccess.getLsbD 2 = false := by
  decide

theorem statusError_bits (k : ErrKind) (c : Cause) :
    (statusError k c).getLsbD 0 = false ∧ (statusError k c).getLsbD 1 = true ∧ (statusError k c).getLsbD 2 = true := by
  simp [statusError]

theorem statusError_eq_errorWord (k : ErrKind) (c : Cause) :
    statusError k c = errorWord (kindCode k).toNat (causeCode c).toNat := by
  cases k <;> cases c <;> rfl

theorem kindCode_bounds (k : ErrKind) : 1 ≤ (kindCode k).toNat ∧ (kindCode k).toNat ≤ 4 := by
  cases k <;> decide

theorem causeCode_bounds (c : Cause) : 1 ≤ (causeCode c).toNat ∧ (causeCode c).toNat ≤ 0x22 := by
  cases c <;> decide

/-- STATUS shows the cause in its bits from 8 up (10_state.md R31). -/
theorem statusError_cause (k : ErrKind) (c : Cause) : statusError k c >>> 8 = causeCode c := by
  cases k <;> cases c <;> rfl

theorem cause_of_statusError_srcLenRange {k : ErrKind} {c : Cause}
    (h : statusError k c = 0x00000236 ∨ statusError k c = 0x00000246) : c = .srcLenRange := by
  have hcode : causeCode c = 2 := by
    rw [← statusError_cause k c]
    rcases h with h | h <;> rw [h] <;> decide
  cases c with
  | srcLenRange => rfl
  | _ => exact absurd hcode (by decide)

theorem not_busy_of_commandEnd {s t : State} {own : DstEffect} (h : CommandEnd s own t) : t.busy = false := by
  cases h with
  | success => rw [State.busy, State.complete_status, statusSuccess_bits.1]
  | error h k c pos e => rw [State.busy, State.raise_status, (statusError_bits k c).1]

theorem src_of_commandEnd {s t : State} {own : DstEffect} (h : CommandEnd s own t) : t.src = s.src := by
  cases h with
  | success => rfl
  | error h k c pos e => rw [State.raise_src, State.setHidden_src]

theorem commandKeeps_of_commandEnd {s t : State} {own : DstEffect} (h : CommandEnd s own t) : CommandKeeps s t := by
  cases h with
  | success h out hcmd hlen => exact ⟨rfl, hcmd, hlen, fun _ => rfl⟩
  | error h k c pos e hcmd hlen => cases e <;> exact ⟨rfl, hcmd, hlen, fun _ => rfl⟩

/-- An output that fits a legal DST has its length in DST_LEN (00_scope.md R5). -/
theorem toNat_length_of_le {p : Params} (hp : p.legal) {n : Nat} (hn : n ≤ p.dstCap) : (BitVec.ofNat 32 n).toNat = n := by
  obtain ⟨-, ⟨k, hk, hcap⟩, -⟩ := hp
  have hpow : 2 ^ k ≤ 2 ^ 20 := Nat.pow_le_pow_right (by decide) (Nat.lt_succ_iff.1 (List.mem_range.1 hk))
  rw [BitVec.toNat_ofNat, Nat.mod_eq_of_lt]
  omega

/-! ### The invariant, per operation -/

theorem length_leBytes (n : Nat) (v : Word) : (leBytes n v).length = n := by
  induction n generalizing v with
  | zero => rfl
  | succ n ih => rw [leBytes, List.length_cons, ih]

section
variable {s : State} (hs : s.Inv)
include hs

theorem inv_advance : (advance s).Inv := { hs with }

theorem inv_respond (r : Response) : (s.respond r).Inv := { hs with }

theorem inv_acknowledge : s.acknowledge.Inv := { hs with }

theorem inv_registers (cmd srcLen : Word) (ie : Bool) :
    ({ s with cmd := cmd, srcLen := srcLen, doneIe := ie } : State).Inv :=
  { hs with }

theorem inv_rst (level : Bool) : ({ s with rst := level } : State).Inv := { hs with }

theorem inv_draw : s.draw.Inv :=
  { hs with draws_fresh := ⟨hs.draws_fresh.1, Nat.lt_succ_of_lt hs.draws_fresh.2⟩ }

theorem inv_loseDst : s.loseDst.Inv :=
  { hs with
    dst_wf := .nil
    dst_bound := fun _ h => absurd h List.not_mem_nil
    draws_fresh := ⟨hs.draws_fresh.1.trans hs.draws_fresh.2, Nat.lt_succ_self _⟩ }

theorem inv_accept : s.accept.Inv :=
  { hs with
    status_legal := .inr (.inl rfl)
    dstLen_le := Nat.zero_le _
    dstLen_zero := fun _ => rfl
    errPos_zero := fun _ => rfl
    errPos_le := fun _ => Nat.zero_le _ }

/-- The registers' reset values meet the invariant whatever the hidden state is (70_reset_and_hazards.md R240, R242). -/
theorem inv_loseHidden_clearRegisters : s.loseHidden.clearRegisters.Inv :=
  { hs with
    status_legal := .inl rfl
    dstLen_le := Nat.zero_le _
    dstLen_zero := fun _ => rfl
    errPos_zero := fun _ => rfl
    errPos_le := fun _ => Nat.zero_le _
    draws_fresh := ⟨hs.draws_fresh.1, Nat.lt_succ_of_lt hs.draws_fresh.2⟩ }

theorem inv_resetBlock : s.resetBlock.Inv := by
  cases hb : s.busy with
  | false => rw [State.resetBlock_idle s hb]; exact inv_loseHidden_clearRegisters hs
  | true => rw [State.resetBlock_busy s hb]; exact inv_loseHidden_clearRegisters (inv_loseDst hs)

theorem inv_driveRst (level : Bool) : (s.driveRst level).Inv := by
  cases level with
  | false => exact inv_rst hs false
  | true => exact inv_rst (inv_resetBlock hs) true

theorem inv_writeDst {a : Nat} {v : List Byte} (hv : a + v.length ≤ s.params.dstCap) : (s.writeDst a v).Inv :=
  { hs with dst_wf := Memory.putBytes_wf hs.dst_wf a v, dst_bound := Memory.putBytes_bound hs.dst_bound hv }

theorem inv_writeSrc {a : Nat} {v : List Byte} (hv : a + v.length ≤ s.params.srcCap) : (s.writeSrc a v).Inv :=
  { hs with src_wf := Memory.putBytes_wf hs.src_wf a v, src_bound := Memory.putBytes_bound hs.src_bound hv }

theorem inv_writeWindow {off : Offset} {w : Width} {t : WindowTarget} (ht : windowTarget s.params off w = some t)
    (v : Word) : (s.writeWindow t (leBytes (widthBytes w) v)).Inv := by
  have hbound := windowTarget_bound ht
  cases t with
  | src a => exact inv_writeSrc hs (by rwa [length_leBytes])
  | dst a => exact inv_writeDst hs (by rwa [length_leBytes])

theorem inv_setHidden {h : Hidden} (hlen : h.lenL = s.hidden.lenL) : (s.setHidden h).Inv :=
  { hs with errPos_le := fun herr => hlen ▸ hs.errPos_le herr }

theorem inv_markSuccess {n : Nat} (hn : n ≤ s.params.dstCap) : (s.markSuccess n).Inv :=
  { hs with
    status_legal := .inr (.inr (.inl rfl))
    dstLen_le := (toNat_length_of_le hs.params_legal hn).trans_le hn
    dstLen_zero := fun h => absurd rfl h
    errPos_zero := fun _ => rfl
    errPos_le := fun _ => Nat.zero_le _ }

theorem inv_markError {k : ErrKind} {c : Cause} {pos : Nat} (hk : k ∈ causeKinds c)
    (hpos : pos ≤ s.hidden.lenL.toNat) : (s.markError k c pos).Inv :=
  { hs with
    status_legal := .inr (.inr (.inr ⟨k, c, hk, rfl⟩))
    dstLen_le := Nat.zero_le _
    dstLen_zero := fun _ => rfl
    errPos_zero := fun h => absurd ((statusError_bits k c).2.2.symm.trans h) (by decide)
    errPos_le := fun _ => by
      rw [State.markError_errPos, BitVec.toNat_ofNat]
      exact (Nat.mod_le _ _).trans hpos }

theorem inv_commandEnd {t : State} {own : DstEffect} (h : CommandEnd s own t) : t.Inv := by
  cases h with
  | success h out hcmd hlen hout =>
    exact inv_markSuccess (inv_writeDst (inv_setHidden hs hlen) (by simpa using hout)) hout
  | error h k c pos e hcmd hlen hk hpos =>
    have hpos' : pos ≤ h.lenL.toNat := hlen ▸ hpos
    cases e with
    | kept => exact inv_markError (inv_setHidden hs hlen) hk hpos'
    | lost => exact inv_markError (inv_loseDst (inv_setHidden hs hlen)) hk hpos'

theorem inv_hostEffect {a : Access} {t : State} (h : HostEffect s a t) : t.Inv := by
  cases h with
  | answer r => exact inv_respond hs _
  | accept => exact inv_respond (inv_accept hs) _
  | reset => exact inv_respond (inv_resetBlock hs) _
  | acknowledge => exact inv_respond (inv_acknowledge hs) _
  | register => exact inv_respond (inv_registers hs _ _ _) _
  | freeRead => exact inv_respond (inv_draw hs) _
  | window v w off tgt hrst hidle htgt => exact inv_respond (inv_writeWindow hs htgt v) _

end

/-! ### The register page -/

theorem hostTurn_of_decode {s : State} {a : Access} {i : Instr} (hrst : s.rst = false)
    (h : decode s.params (.access a) = .ok i) : hostTurn a s = exec i s := by
  simp [hostTurn, hrst, h]

theorem hostTurn_of_reject {s : State} {a : Access} {r : Reject} (hrst : s.rst = false)
    (h : decode s.params (.access a) = .error r) : hostTurn a s = .next (rejectedAccess r s) := by
  simp [hostTurn, hrst, h]

theorem decodeRegWrite_readOnly (v : Word) :
    ∀ off ∈ [(0x000 : Offset), 0x004, 0x008, 0x00C, 0x01C, 0x020, 0x024],
      off.toNat ≤ 0xFFC ∧ off.toNat % 4 = 0 ∧ decodeRegWrite off v = .error .readOnly := by
  simp [decodeRegWrite]

/-- No register is at a reserved word's offset (10_state.md R35). -/
theorem reserved_ne_register {off k : Offset} (h : 0x030 ≤ off.toNat) (hk : k.toNat < 0x030) : off ≠ k := by
  rintro rfl
  omega

theorem decodeRegWrite_reserved {off : Offset} (h : 0x030 ≤ off.toNat) (v : Word) :
    decodeRegWrite off v = .error .reservedWord := by
  simp [decodeRegWrite, reserved_ne_register h, h]

theorem readRegister_reserved (s : State) {off : Offset} (h : 0x030 ≤ off.toNat) : s.readRegister off = 0 := by
  simp [State.readRegister, reserved_ne_register h]

/-! ### The statements -/

/-- Settles O11: by the agent that moves, each of whose effects keeps the invariant. -/
theorem stepKeepsTheInvariant : Obligations.StepKeepsTheInvariant := by
  intro s t hs hstep
  have hadv := inv_advance hs
  rcases step_effect hstep with ⟨a, -, heff⟩ | ⟨-, rfl | ⟨-, own, hend⟩⟩ | ⟨level, -, rfl⟩
  · exact inv_hostEffect hadv heff
  · exact hadv
  · exact inv_commandEnd hadv hend
  · exact inv_driveRst hadv level

/-- Settles O13: of the effects of a step only a window write changes SRC, and the map places its target. -/
theorem onlyAnIdleHostWriteChangesSrc : Obligations.OnlyAnIdleHostWriteChangesSrc := by
  intro s t hstep hsrc
  rcases step_effect hstep with ⟨a, ha, heff⟩ | ⟨-, rfl | ⟨-, own, hend⟩⟩ | ⟨level, -, rfl⟩
  · cases heff with
    | window v w off tgt hrst hidle htgt =>
      obtain ⟨halign, ⟨hlow, hhigh, rfl⟩ | ⟨-, -, rfl⟩⟩ := windowTarget_eq_some htgt
      · exact ⟨hidle, hrst, v, w, off, ha, hlow, halign, hhigh⟩
      · exact absurd rfl hsrc
    | reset => exact absurd (State.resetBlock_src _) hsrc
    | answer | accept | acknowledge | register | freeRead => exact absurd rfl hsrc
  · exact absurd rfl hsrc
  · exact absurd (src_of_commandEnd hend) hsrc
  · cases level with
    | false => exact absurd rfl hsrc
    | true => exact absurd (State.resetBlock_src _) hsrc

/-- Settles O14: by the effect of the step, each of which has its line of the list. -/
theorem flagsChangeOnlyByTheListedEvents : Obligations.FlagsChangeOnlyByTheListedEvents := by
  intro s t hstep
  rcases step_effect hstep with ⟨a, ha, heff⟩ | ⟨hnext, rfl | ⟨hbusy, own, hend⟩⟩ | ⟨level, hlevel, rfl⟩
  · cases heff with
    | accept v h1 h0 hidle => exact .inr (.inr (.inl ⟨rfl, rfl, hidle, v, ha, h1, h0⟩))
    | reset v h1 => exact .inr (.inl ⟨State.resetBlock_status _, State.resetBlock_doneIp _, .inr ⟨v, ha, h1⟩⟩)
    | acknowledge v h0 => exact .inr (.inr (.inr (.inr (.inr ⟨rfl, rfl, v, ha, h0⟩))))
    | window v w off tgt => cases tgt <;> exact .inl ⟨rfl, rfl⟩
    | answer | register | freeRead => exact .inl ⟨rfl, rfl⟩
  · exact .inl ⟨rfl, rfl⟩
  · cases hend with
    | success h out => exact .inr (.inr (.inr (.inl ⟨rfl, rfl, hbusy, hnext⟩)))
    | error h k c pos e =>
      obtain ⟨hk1, hk4⟩ := kindCode_bounds k
      obtain ⟨hc1, hc22⟩ := causeCode_bounds c
      refine .inr (.inr (.inr (.inr (.inl ⟨⟨_, _, hk1, hk4, hc1, hc22, ?_⟩, State.raise_doneIp .., hbusy, hnext⟩))))
      rw [State.raise_status, statusError_eq_errorWord]
  · cases level with
    | false => exact .inl ⟨rfl, rfl⟩
    | true => exact .inr (.inl ⟨State.resetBlock_status _, State.resetBlock_doneIp _, .inl hlevel⟩)

/-- Settles O15: an effect that could change the latch or SRC needs an idle block or leaves one. -/
theorem runningCommandKeepsItsInputs : Obligations.RunningCommandKeepsItsInputs := by
  intro s t hstep hbusy hbusy'
  have hreset : (advance s).resetBlock.busy = false := by rw [State.busy, State.resetBlock_status]; rfl
  rcases step_effect hstep with ⟨a, -, heff⟩ | ⟨-, rfl | ⟨-, own, hend⟩⟩ | ⟨level, -, rfl⟩
  · cases heff with
    | accept v h1 h0 hidle => exact absurd (hbusy.symm.trans hidle) (by decide)
    | window v w off tgt hrst hidle => exact absurd (hbusy.symm.trans hidle) (by decide)
    | reset v => exact absurd (hbusy'.symm.trans hreset) (by decide)
    | answer | acknowledge | register | freeRead => exact ⟨rfl, rfl, fun _ => rfl, rfl⟩
  · exact ⟨rfl, rfl, fun _ => rfl, rfl⟩
  · exact absurd (hbusy'.symm.trans (not_busy_of_commandEnd hend)) (by decide)
  · cases level with
    | false => exact ⟨rfl, rfl, fun _ => rfl, rfl⟩
    | true => exact absurd (hbusy'.symm.trans hreset) (by decide)

/-- Settles O36: by the command's end; STATUS tells SRC_LEN_RANGE, which keeps DST, from the command's own errors. -/
theorem commandFrame : Obligations.CommandFrame := by
  intro s i hi hlegal
  obtain ⟨t, ht, hend⟩ := exec_commandEnd hi s
  refine ⟨t, ht, commandKeeps_of_commandEnd hend, not_busy_of_commandEnd hend, ?_⟩
  cases hend with
  | success h out hcmd hlen hout =>
    have hdst : ∀ a, out.length ≤ a → ((s.setHidden h).complete out).dstByte a = s.dstByte a := fun a ha => by
      rw [State.complete_dstByte, dif_neg (not_lt.2 ha)]; rfl
    obtain ⟨-, hdone, herr⟩ := statusSuccess_bits
    refine ⟨hdone, rfl, fun _ => ⟨herr, rfl, fun a ha => hdst a ?_⟩, fun h => absurd rfl h, fun h => ?_⟩
    · rwa [State.complete_dstLen, toNat_length_of_le hlegal hout] at ha
    · rw [State.complete_status] at h
      rcases h with h | h | ⟨-, h⟩ <;> exact absurd h (by decide)
  | error h k c pos e hcmd hlen hk hpos he =>
    obtain ⟨-, hdone, herr⟩ := statusError_bits k c
    simp only [State.done, State.err, State.raise_status, State.raise_dstLen, State.raise_doneIp]
    refine ⟨hdone, trivial, fun h => absurd h (statusError_ne_statusSuccess k c), fun _ => ⟨herr, trivial⟩, fun h => ?_⟩
    have hkept : e = .kept := by
      rcases he with he | ⟨rfl, hc⟩
      · exact he
      · rcases h with h | h | ⟨rfl, -⟩
        · exact absurd (cause_of_statusError_srcLenRange (.inl h)) hc
        · exact absurd (cause_of_statusError_srcLenRange (.inr h)) hc
        · rfl
    subst hkept
    exact fun _ => rfl

/-- Settles O20: both turns test rst first, and asserting it clears the registers. -/
theorem assertedResetInputBlocksTheBlock : Obligations.AssertedResetInputBlocksTheBlock := by
  refine fun s => ⟨fun hrst => ⟨fun a => ?_, engineTurn_of_idle (.inr hrst)⟩, _, rfl, rfl, ?_⟩
  · rw [hostTurn, if_pos hrst]; rfl
  · simp [ResetValues, State.driveRst, State.readRegister, State.intEnWord, State.intStatWord, State.irq, idValue,
      versionValue]

/-- Settles O29: the decoder rejects such a write by name, and a reserved word is none of the registers. -/
theorem readOnlyAndReservedWritesAreIgnored : Obligations.ReadOnlyAndReservedWritesAreIgnored := by
  refine fun s v hrst => ⟨fun off hoff => ?_, fun off hlow hhigh halign => ⟨?_, ?_⟩⟩
  · obtain ⟨hhigh, halign, hdec⟩ := decodeRegWrite_readOnly v off hoff
    exact hostTurn_of_reject hrst ((decode_register_write s.params hhigh halign v).trans hdec)
  · exact hostTurn_of_reject hrst ((decode_register_write s.params hhigh halign v).trans (decodeRegWrite_reserved hlow v))
  · rw [hostTurn_of_decode hrst (decode_register_read s.params hhigh halign), exec, execRdReg,
      if_pos (registerAccessOk_of_le s.params hhigh halign), readRegister_reserved s hlow]
    rfl

end Sys2Proof.Proofs
end

section
/-!
PROOFS. The family 20_memory: the windows' bytes and the accesses that get an error response. The rules of the map and of the
decoder come first, then those of byte order and of a window access, then the seven statements.
-/

namespace Sys2Proof.Proofs

open Sys2Proof.Machine Sys2Proof.Claims

/-! ### The map -/

theorem widthBytes_pos (w : Width) : 0 < widthBytes w := by
  cases w <;> decide

theorem widthBytes_le (w : Width) : widthBytes w ≤ 4 := by
  cases w <;> decide

/-- The SRC window ends at or before the DST window (00_scope.md R5, 20_memory.md R61). -/
theorem srcCap_le_of_legal {p : Params} (hp : p.legal) : p.srcCap ≤ 0x100000 := by
  obtain ⟨⟨k, hk, hcap⟩, -, -⟩ := hp
  exact hcap.trans_le (Nat.pow_le_pow_right (by decide) (Nat.lt_succ_iff.1 (List.mem_range.1 hk)))

/-- Every byte of an access that falls in a region is mapped. -/
theorem mapped_of_regionOf {p : Params} {off n k : Nat} (h : regionOf p off n ≠ .unmapped) (hk : k < n) :
    Mapped p (off + k) := by
  unfold Mapped
  cases hr : regionOf p off n with
  | registers =>
    have hle := regionOf_registers hr
    omega
  | src a =>
    obtain ⟨hlow, hhigh, -⟩ := regionOf_src hr
    omega
  | dst a =>
    obtain ⟨hlow, hhigh, -⟩ := regionOf_dst hr
    omega
  | unmapped => exact absurd hr h

theorem regionOf_eq_src (p : Params) {off n : Nat} (hlow : 0x100000 ≤ off) (hhigh : off + n ≤ 0x100000 + p.srcCap) :
    regionOf p off n = .src (off - 0x100000) := by
  rw [regionOf, if_neg (by omega), if_pos ⟨hlow, hhigh⟩]

theorem regionOf_eq_dst {p : Params} (hp : p.legal) {off n : Nat} (hn : 0 < n) (hlow : 0x200000 ≤ off)
    (hhigh : off + n ≤ 0x200000 + p.dstCap) : regionOf p off n = .dst (off - 0x200000) := by
  have hcap := srcCap_le_of_legal hp
  rw [regionOf, if_neg (by omega), if_neg (by omega), if_pos ⟨hlow, hhigh⟩]

theorem windowTarget_eq_src {p : Params} {off : Offset} {w : Width} (halign : off.toNat % widthBytes w = 0)
    (hlow : 0x100000 ≤ off.toNat) (hhigh : off.toNat + widthBytes w ≤ 0x100000 + p.srcCap) :
    windowTarget p off w = some (.src (off.toNat - 0x100000)) := by
  simp [windowTarget, aligned, halign, regionOf_eq_src p hlow hhigh]

theorem windowTarget_eq_dst {p : Params} (hp : p.legal) {off : Offset} {w : Width}
    (halign : off.toNat % widthBytes w = 0) (hlow : 0x200000 ≤ off.toNat)
    (hhigh : off.toNat + widthBytes w ≤ 0x200000 + p.dstCap) :
    windowTarget p off w = some (.dst (off.toNat - 0x200000)) := by
  simp [windowTarget, aligned, halign, regionOf_eq_dst hp (widthBytes_pos w) hlow hhigh]

/-! ### The accesses that are refused -/

theorem decodeAccess_unmapped {p : Params} {a : Access} (h : regionOf p a.off.toNat (widthBytes a.width) = .unmapped) :
    decodeAccess p a = .error .unmapped := by
  simp [decodeAccess, h]

/-- An access that begins in the register page is refused, unless the page takes it (20_memory.md R62, R63). -/
theorem decodeAccess_register_refused {p : Params} {a : Access} (hpage : a.off.toNat < 0x1000)
    (h : a.width ≠ .w32 ∨ a.off.toNat % 4 ≠ 0) :
    decodeAccess p a = .error .registerAccess ∨ decodeAccess p a = .error .unmapped := by
  cases hr : regionOf p a.off.toNat (widthBytes a.width) with
  | registers =>
    have hok : ¬ registerAccessOk p a.off a.width = true := fun hok => by
      obtain ⟨hw, -, ha⟩ := (registerAccessOk_iff ..).1 hok
      exact h.elim (· hw) (· ha)
    exact .inl (by simp [decodeAccess, hr, hok])
  | src b =>
    obtain ⟨hlow, -, -⟩ := regionOf_src hr
    omega
  | dst b =>
    obtain ⟨hlow, -, -⟩ := regionOf_dst hr
    omega
  | unmapped => exact .inr (decodeAccess_unmapped hr)

/-- A misaligned access beyond the register page is refused (20_memory.md R62, R64). -/
theorem decodeAccess_misaligned {p : Params} {a : Access} (hpage : 0x1000 ≤ a.off.toNat)
    (h : a.off.toNat % widthBytes a.width ≠ 0) :
    decodeAccess p a = .error .misaligned ∨ decodeAccess p a = .error .unmapped := by
  cases hr : regionOf p a.off.toNat (widthBytes a.width) with
  | registers =>
    have hle := regionOf_registers hr
    have hpos := widthBytes_pos a.width
    omega
  | src b => exact .inl (by simp [decodeAccess, hr, aligned, h])
  | dst b => exact .inl (by simp [decodeAccess, hr, aligned, h])
  | unmapped => exact .inr (decodeAccess_unmapped hr)

/-- An access with one of the decoder's errors is answered by an error response, under reset or not. -/
theorem hostTurn_error_response {s : State} {a : Access} {r : Reject} (hdec : decodeAccess s.params a = .error r)
    (hr : rejectedAccess r s = s.respond .error) : hostTurn a s = .next { s with resp := .error } := by
  rcases hostTurn_cases a s with ⟨-, he⟩ | ⟨-, i, hi, -⟩ | ⟨-, r', hr', he⟩
  · exact he
  · cases hdec.symm.trans hi
  · obtain rfl : r = r' := Except.error.inj (hdec.symm.trans hr')
    exact he.trans (congrArg _ hr)

/-! ### Reads -/

/-- The rows of the opcode table that are reads are RD_REG and a window read. -/
theorem read_rows {i : Instr} {a : Access} (hi : encode i = .access a) (hread : a.kind = .read) :
    (∃ off, i = .rdReg off) ∨ ∃ w off, i = .winAccess .read w off := by
  cases i with
  | rdReg off => exact .inl ⟨off, rfl⟩
  | winAccess k w off =>
    obtain rfl := Encoding.access.inj hi
    obtain rfl : k = .read := hread
    exact .inr ⟨w, off, rfl⟩
  | hufc | hufd | lzc | lzd => cases hi
  | start | sreset | intack | wrIntEn | wrCmdSrcLen =>
    obtain rfl := Encoding.access.inj hi
    cases hread

theorem execRdReg_keeps {off : Offset} {s t : State} (h : execRdReg off s = .next t) :
    t = { s with resp := t.resp, draws := t.draws } := by
  unfold execRdReg at h
  split_ifs at h <;> obtain rfl := Host.Outcome.next.inj h <;> rfl

theorem execWinAccess_read_keeps {w : Width} {off : Offset} {s t : State} (h : execWinAccess .read w off s = .next t) :
    t = { s with resp := t.resp, draws := t.draws } := by
  rcases execWinAccess_cases .read w off s with
    ⟨-, he⟩ | ⟨tgt, -, ⟨-, -, he⟩ | ⟨-, -, he⟩ | ⟨v, hv, -⟩ | ⟨v, hv, -⟩⟩
  case inr.inr.inr.inl | inr.inr.inr.inr => cases hv
  all_goals obtain rfl := Host.Outcome.next.inj (he.symm.trans h); rfl

/-! ### Byte order (20_memory.md R65) -/

theorem leValue_lt (bs : List Byte) : (leValue bs).toNat < 2 ^ (8 * bs.length) := by
  induction bs with
  | nil => decide
  | cons b bs ih =>
    have hexp : 8 * (b :: bs).length = 8 + 8 * bs.length := by rw [List.length_cons]; omega
    have hb : b.toNat < 2 ^ (8 + 8 * bs.length) := b.isLt.trans_le (Nat.pow_le_pow_right (by decide) (by omega))
    have hbs : (leValue bs).toNat <<< 8 < 2 ^ (8 + 8 * bs.length) := by
      rw [Nat.shiftLeft_eq, Nat.pow_add]
      omega
    rw [leValue, hexp, BitVec.toNat_or, BitVec.toNat_setWidth, BitVec.toNat_shiftLeft]
    exact Nat.or_lt_two_pow ((Nat.mod_le _ _).trans_lt hb) ((Nat.mod_le _ _).trans_lt hbs)

theorem leValue_cons_extract_zero (b : Byte) (bs : List Byte) : (leValue (b :: bs)).extractLsb' 0 8 = b := by
  ext i hi
  have hi' : i < 32 := by omega
  simp [leValue, hi, hi']

theorem leValue_cons_extract_succ (b : Byte) (bs : List Byte) {k : Nat} (hk : k + 1 < 4) :
    (leValue (b :: bs)).extractLsb' (8 * (k + 1)) 8 = (leValue bs).extractLsb' (8 * k) 8 := by
  ext i hi
  have hlt : 8 * (k + 1) + i < 32 := by omega
  have hge : ¬ 8 * (k + 1) + i < 8 := by omega
  have hsub : 8 * (k + 1) + i - 8 = 8 * k + i := by omega
  have hb : b.getLsbD (8 * (k + 1) + i) = false := b.getLsbD_of_ge _ (by omega)
  simp [leValue, hlt, hge, hsub, hb, ← BitVec.getLsbD_eq_getElem]

/-- A word holds its first four bytes, least significant first. -/
theorem leValue_extract (bs : List Byte) {k : Nat} (hk : k < bs.length) (h4 : k < 4) :
    (leValue bs).extractLsb' (8 * k) 8 = bs[k] := by
  induction bs generalizing k with
  | nil => cases hk
  | cons b bs ih =>
    cases k with
    | zero => exact leValue_cons_extract_zero b bs
    | succ k =>
      rw [leValue_cons_extract_succ b bs h4]
      exact ih (Nat.lt_of_succ_lt_succ hk) (Nat.lt_of_succ_lt h4)

theorem leBytes_getElem {n : Nat} (v : Word) {k : Nat} (hk : k < (leBytes n v).length) :
    (leBytes n v)[k] = v.extractLsb' (8 * k) 8 := by
  induction n generalizing v k with
  | zero => cases hk
  | succ n ih =>
    cases k with
    | zero =>
      ext i hi
      simp [leBytes]
    | succ k =>
      refine (ih (v >>> 8) (Nat.lt_of_succ_lt_succ hk)).trans ?_
      ext i hi
      simp [Nat.mul_add, Nat.add_comm, Nat.add_left_comm]

/-- What a buffer reads after the low `n` bytes of a word are written at `a`: the bytes in place, and the rest as before. -/
theorem readOr_putBytes_leBytes (m : Memory) (draw a n : Nat) (v : Word) :
    (∀ k, k < n → (m.putBytes a (leBytes n v)).readOr draw (a + k) = v.extractLsb' (8 * k) 8) ∧
      ∀ b, b < a ∨ a + n ≤ b → (m.putBytes a (leBytes n v)).readOr draw b = m.readOr draw b := by
  constructor
  · intro k hk
    rw [Memory.readOr_putBytes, dif_pos (by rw [length_leBytes]; omega), leBytes_getElem, Nat.add_sub_cancel_left]
  · intro b hb
    rw [Memory.readOr_putBytes, dif_neg (by rw [length_leBytes]; omega)]

/-! ### A window access -/

/-- The byte `k` on from a window access's target. -/
def windowByte (s : State) (t : WindowTarget) (k : Nat) : Byte :=
  match t with
  | .src a => s.srcByte (a + k)
  | .dst a => s.dstByte (a + k)

theorem windowBytes_eq_map (s : State) (t : WindowTarget) (n : Nat) :
    s.windowBytes t n = (List.range n).map (windowByte s t) := by
  cases t <;> rfl

theorem leValue_windowBytes_lt (s : State) (t : WindowTarget) (n : Nat) :
    (leValue (s.windowBytes t n)).toNat < 2 ^ (8 * n) := by
  simpa [windowBytes_eq_map] using leValue_lt (s.windowBytes t n)

theorem leValue_windowBytes_extract (s : State) (t : WindowTarget) {n k : Nat} (hk : k < n) (h4 : k < 4) :
    (leValue (s.windowBytes t n)).extractLsb' (8 * k) 8 = windowByte s t k := by
  rw [windowBytes_eq_map, leValue_extract _ (by simpa using hk) h4]
  simp

section
variable {s : State} {w : Width} {off : Offset} {t : WindowTarget} (ht : windowTarget s.params off w = some t)
include ht

theorem exec_window_read_idle (hidle : s.busy = false) :
    exec (.winAccess .read w off) s = .next (s.respond (.data (leValue (s.windowBytes t (widthBytes w))))) := by
  simp [exec, execWinAccess, ht, hidle]

theorem exec_window_read_busy (hbusy : s.busy = true) :
    exec (.winAccess .read w off) s = .next (s.draw.respond (.data (freeRead s.draws (widthBytes w)))) := by
  simp [exec, execWinAccess, ht, hbusy]

theorem exec_window_write_idle (hidle : s.busy = false) (v : Word) :
    exec (.winAccess (.write v) w off) s = .next ((s.writeWindow t (leBytes (widthBytes w) v)).respond .ok) := by
  simp [exec, execWinAccess, ht, hidle]

theorem exec_window_write_busy (hbusy : s.busy = true) (v : Word) :
    exec (.winAccess (.write v) w off) s = .next (s.respond .ok) := by
  simp [exec, execWinAccess, ht, hbusy]

/-- A window read while no command runs, in either window (42_control.md R199). -/
theorem exec_window_read_littleEndian (hidle : s.busy = false) :
    ∃ v : Word, exec (.winAccess .read w off) s = .next { s with resp := .data v } ∧ v.toNat < 2 ^ (8 * widthBytes w) ∧
      ∀ k, k < widthBytes w → v.extractLsb' (8 * k) 8 = windowByte s t k :=
  ⟨_, exec_window_read_idle ht hidle, leValue_windowBytes_lt s t _,
    fun _ hk => leValue_windowBytes_extract s t hk (hk.trans_le (widthBytes_le w))⟩

end

/-! ### The statements -/

/-- Settles O30: the map gives the window's target, and the answer's bytes are the target's in either window. -/
theorem windowReadIsLittleEndian : Obligations.WindowReadIsLittleEndian :=
  fun _ _ _ hlegal hidle halign =>
    ⟨fun hlow hhigh => exec_window_read_littleEndian (windowTarget_eq_src halign hlow hhigh) hidle,
      fun hlow hhigh => exec_window_read_littleEndian (windowTarget_eq_dst hlegal halign hlow hhigh) hidle⟩

/-- Settles O31: the map gives the window's target, and a buffer reads the low bytes of the data there. -/
theorem windowWriteIsLittleEndian : Obligations.WindowWriteIsLittleEndian := by
  refine fun s w off v hlegal hidle halign => ⟨fun hlow hhigh => ?_, fun hlow hhigh => ?_⟩
  · exact ⟨_, exec_window_write_idle (windowTarget_eq_src halign hlow hhigh) hidle v, rfl,
      readOr_putBytes_leBytes s.src 0 _ _ v⟩
  · exact ⟨_, exec_window_write_idle (windowTarget_eq_dst hlegal halign hlow hhigh) hidle v, rfl,
      readOr_putBytes_leBytes s.dst s.dstDraw _ _ v⟩

/-- Settles O33: a region holds mapped bytes only, so the access is in none and the decoder rejects it as unmapped. -/
theorem unmappedAccessGetsAnErrorResponse : Obligations.UnmappedAccessGetsAnErrorResponse := by
  rintro s a ⟨k, hk, hunmapped⟩
  have hregion : regionOf s.params a.off.toNat (widthBytes a.width) = .unmapped :=
    by_contra fun h => hunmapped (mapped_of_regionOf h hk)
  exact hostTurn_error_response (decodeAccess_unmapped hregion) rfl

/-- Settles O35: a read is refused, answered without an instruction, or one of the two rows that read. -/
theorem readsHaveNoSideEffect : Obligations.ReadsHaveNoSideEffect := by
  intro s t a hread h
  rcases hostTurn_cases a s with ⟨-, he⟩ | ⟨-, i, hi, he⟩ | ⟨-, r, -, he⟩
  · obtain rfl := Host.Outcome.next.inj (he.symm.trans h)
    rfl
  · rcases read_rows (encode_of_decodeAccess hi) hread with ⟨off, rfl⟩ | ⟨w, off, rfl⟩
    · exact execRdReg_keeps (he.symm.trans h)
    · exact execWinAccess_read_keeps (he.symm.trans h)
  · obtain rfl := Host.Outcome.next.inj (he.symm.trans h)
    rcases rejectedAccess_eq r s with hr | hr <;> rw [hr] <;> rfl

/-- Settles O6: an engine turn takes its own event, and a running block's turn is that of its latched command. -/
theorem stepRunsTheLatchedCommand : Obligations.StepRunsTheLatchedCommand := by
  intro s i hnext hbusy hrst hdecode
  rw [step_of_nextIsEngine hnext]
  rcases engineTurn_cases { s with events := s.events.tail } with ⟨hr | hb, -⟩ | ⟨-, -, j, hj, ht⟩ | ⟨-, -, r, hr, -⟩
  · exact absurd (hrst.symm.trans hr) Bool.false_ne_true
  · exact absurd (hb.symm.trans hbusy) Bool.false_ne_true
  · obtain rfl : i = j := Except.ok.inj (hdecode.symm.trans hj)
    exact ht
  · cases hdecode.symm.trans hr

/-- Settles O32: by the two equations of a window access while a command runs. -/
theorem windowAccessWhileBusy : Obligations.WindowAccessWhileBusy := by
  intro s w off hbusy htarget
  obtain ⟨t, ht⟩ := Option.isSome_iff_exists.1 htarget
  exact ⟨⟨_, exec_window_read_busy ht hbusy⟩, exec_window_write_busy ht hbusy⟩

/-- Settles O34: such an access is rejected as the page's or as misaligned, or where it leaves its region as unmapped. -/
theorem misalignedAccessGetsAnErrorResponse : Obligations.MisalignedAccessGetsAnErrorResponse := by
  refine fun s a => ⟨fun hpage h => ?_, fun hpage h => ?_⟩
  · rcases decodeAccess_register_refused hpage h with hdec | hdec <;> exact hostTurn_error_response hdec rfl
  · rcases decodeAccess_misaligned hpage h with hdec | hdec <;> exact hostTurn_error_response hdec rfl

end Sys2Proof.Proofs
end

section
/-!
PROOFS. The family 30_encoding, the instructions: the decoder against the encoder, the command words by their fields and the
end of an illegal one. The rules of the command word and of the encoder's accesses come first, then the four statements.
-/

namespace Sys2Proof.Proofs

open Sys2Proof.Machine Sys2Proof.Claims

/-! ### The command word (30_encoding.md R94 to R96) -/

/-- ALG is neither 1 nor 2, or a reserved bit is set (30_encoding.md R94). -/
def IllegalWord (c : Word) : Prop :=
  (c.toNat / 2 ^ 4 % 2 ^ 4 ≠ 1 ∧ c.toNat / 2 ^ 4 % 2 ^ 4 ≠ 2) ∨ c.toNat / 2 % 2 ^ 3 ≠ 0 ∨ c.toNat / 2 ^ 16 ≠ 0

/-- The command mask clears bits 15 to 8, LZC's window, and keeps the rest. -/
theorem toNat_and_commandMask (c : Word) :
    (c &&& 0xFFFF00FF#32).toNat = c.toNat / 2 ^ 16 * 2 ^ 16 + c.toNat % 2 ^ 8 := by
  have hfields : c &&& 0xFFFF00FF#32 = (c >>> 16 <<< 16) + (c.setWidth 8).setWidth 32 := by
    rw [BitVec.add_eq_or_of_and_eq_zero]
    all_goals
      ext k hk
      interval_cases k <;> simp
  have hc := c.isLt
  rw [hfields]
  simp [Nat.shiftRight_eq_div_pow, Nat.shiftLeft_eq]
  omega

theorem illegalWord_iff (c : Word) :
    IllegalWord c ↔ c &&& 0xFFFF00FF#32 ≠ 0x10#32 ∧ c &&& 0xFFFF00FF#32 ≠ 0x11#32 ∧ c &&& 0xFFFF00FF#32 ≠ 0x20#32 ∧
      c &&& 0xFFFF00FF#32 ≠ 0x21#32 := by
  simp only [IllegalWord, ne_eq, ← BitVec.toNat_inj, toNat_and_commandMask, BitVec.toNat_ofNat]
  omega

/-- A command word is one of the four rows of 30_encoding.md R95 or illegal (R96). -/
theorem decodeCommand_cases (c : Word) :
    (c &&& 0xFFFF00FF#32 = 0x10#32 ∧ decodeCommand c = .ok .hufc) ∨
      (c &&& 0xFFFF00FF#32 = 0x11#32 ∧ decodeCommand c = .ok .hufd) ∨
      (c &&& 0xFFFF00FF#32 = 0x20#32 ∧ decodeCommand c = .ok (.lzc (c.extractLsb' 8 8))) ∨
      (c &&& 0xFFFF00FF#32 = 0x21#32 ∧ decodeCommand c = .ok .lzd) ∨
      (IllegalWord c ∧ decodeCommand c = .error .invalidCommand) := by
  rw [illegalWord_iff]
  unfold decodeCommand
  split_ifs with hhufc hhufd hlzc hlzd
  · exact .inl ⟨hhufc, rfl⟩
  · exact .inr (.inl ⟨hhufd, rfl⟩)
  · exact .inr (.inr (.inl ⟨hlzc, rfl⟩))
  · exact .inr (.inr (.inr (.inl ⟨hlzd, rfl⟩)))
  · exact .inr (.inr (.inr (.inr ⟨⟨hhufc, hhufd, hlzc, hlzd⟩, rfl⟩)))

theorem decodeCommand_of_illegalWord {c : Word} (h : IllegalWord c) : decodeCommand c = .error .invalidCommand := by
  obtain ⟨hhufc, hhufd, hlzc, hlzd⟩ := (illegalWord_iff c).1 h
  simp [decodeCommand, hhufc, hhufd, hlzc, hlzd]

theorem windowField_eq_iff (c : Word) (w : Byte) : c.extractLsb' 8 8 = w ↔ w.toNat = c.toNat / 2 ^ 8 % 2 ^ 8 := by
  rw [← BitVec.toNat_inj, BitVec.extractLsb'_toNat, Nat.shiftRight_eq_div_pow, eq_comm]

theorem decodeCommand_lzc_word (w : Byte) : decodeCommand (0x20#32 ||| (w.setWidth 32 <<< 8)) = .ok (.lzc w) := by
  obtain ⟨⟨c, hc, hmask⟩, c', hc', hw⟩ := Laws.TableRow.lzc w Config.defaultParams rfl
  obtain rfl := Encoding.command.inj hc
  obtain rfl := Encoding.command.inj hc'
  simp [decodeCommand, hmask, hw]

/-- The completion of an illegal command word (30_encoding.md R96). -/
theorem badCommand_eq (s : State) :
    badCommand s = { s with status := 0x00000116, dstLen := 0, errPos := 0, doneIp := true } := rfl

/-! ### The accesses the encoder gives -/

theorem decodeRegWrite_start {v : Word} (h : v &&& 3#32 = 1#32) : decodeRegWrite 0x010 v = .ok (.start v) := by
  have hbit (k : Nat) : (v &&& 3#32).getLsbD k = (1#32).getLsbD k := congrArg (BitVec.getLsbD · k) h
  have hstart : v[0] = true := by simpa using hbit 0
  have hsreset : v[1] = false := by simpa using hbit 1
  simp [decodeRegWrite, hstart, hsreset]

theorem decodeRegWrite_sreset {v : Word} (h : v &&& 2#32 = 2#32) : decodeRegWrite 0x010 v = .ok (.sreset v) := by
  have hsreset : v[1] = true := by simpa using congrArg (BitVec.getLsbD · 1) h
  simp [decodeRegWrite, hsreset]

theorem decodeRegWrite_intack {v : Word} (h : v &&& 1#32 = 1#32) : decodeRegWrite 0x02C v = .ok (.intack v) := by
  have hack : v[0] = true := by simpa using congrArg (BitVec.getLsbD · 0) h
  simp [decodeRegWrite, hack]

/-- An access with a target in a window is decoded as the window access it is (42_control.md R199). -/
theorem decodeAccess_window {p : Params} {w : Width} {off : Offset} (k : AccessKind)
    (h : (windowTarget p off w).isSome = true) :
    decodeAccess p { kind := k, off := off, width := w } = .ok (.winAccess k w off) := by
  unfold windowTarget at h
  split_ifs at h with halign
  · cases hr : regionOf p off.toNat (widthBytes w) with
    | registers => simp [hr] at h
    | unmapped => simp [hr] at h
    | src a => simp [decodeAccess, hr, halign]
    | dst a => simp [decodeAccess, hr, halign]
  · cases h

/-! ### The statements -/

/-- Settles O1: by the row of the instruction, whose fixed bits and offset the decoder checks. -/
theorem decodeOfEncodeIsTheInstruction : Obligations.DecodeOfEncodeIsTheInstruction := by
  intro p i hwf
  cases i with
  | hufc => rfl
  | hufd => rfl
  | lzc w => exact decodeCommand_lzc_word w
  | lzd => rfl
  | start v => exact (decode_register_write p (by decide) (by decide) v).trans (decodeRegWrite_start (beq_iff_eq.1 hwf))
  | sreset v => exact (decode_register_write p (by decide) (by decide) v).trans (decodeRegWrite_sreset (beq_iff_eq.1 hwf))
  | intack v => exact (decode_register_write p (by decide) (by decide) v).trans (decodeRegWrite_intack (beq_iff_eq.1 hwf))
  | wrIntEn v => exact decode_register_write p (by decide) (by decide) v
  | wrCmdSrcLen r v => cases r <;> exact decode_register_write p (by decide) (by decide) v
  | rdReg off =>
    obtain ⟨-, hoff, halign⟩ := (registerAccessOk_iff p off .w32).1 hwf
    exact decode_register_read p hoff halign
  | winAccess k w off => exact decodeAccess_window k hwf

/-- Settles O2: by the row the word selects; the mask clears LZC's window alone, so an illegal word is one no row matches. -/
theorem commandWordIsSelectedByItsFields : Obligations.CommandWordIsSelectedByItsFields := by
  intro c
  show _ ∧ _ ∧ _ ∧ _ ∧ (decodeCommand c = .error .invalidCommand ↔ IllegalWord c) ∧ _
  rcases decodeCommand_cases c with ⟨hm, hd⟩ | ⟨hm, hd⟩ | ⟨hm, hd⟩ | ⟨hm, hd⟩ | ⟨hm, hd⟩
  · simp [illegalWord_iff, hm, hd]
  · simp [illegalWord_iff, hm, hd]
  · simp [illegalWord_iff, hm, hd, windowField_eq_iff]
  · simp [illegalWord_iff, hm, hd]
  · obtain ⟨hhufc, hhufd, hlzc, hlzd⟩ := (illegalWord_iff c).1 hm
    simp [hm, hd, hhufc, hhufd, hlzc, hlzd]

/-- Settles O7: the engine's turn ends a word that the decoder rejects as BAD_CMD. -/
theorem illegalCommandEndsAsBadCmd : Obligations.IllegalCommandEndsAsBadCmd := by
  intro s hnext hbusy hrst hillegal
  rw [step_of_nextIsEngine hnext]
  rcases engineTurn_cases { s with events := s.events.tail } with ⟨hr | hb, -⟩ | ⟨-, -, i, hi, -⟩ | ⟨-, -, r, -, ht⟩
  · exact absurd (hrst.symm.trans hr) Bool.false_ne_true
  · exact absurd (hb.symm.trans hbusy) Bool.false_ne_true
  · cases (decodeCommand_of_illegalWord hillegal).symm.trans hi
  · exact ht.trans (congrArg _ (badCommand_eq _))

/-- Settles O4: each line's words, number and command word are computed. -/
theorem assemblerGivesTheCommandWords : Obligations.AssemblerGivesTheCommandWords := by
  unfold Obligations.AssemblerGivesTheCommandWords
  decide

end Sys2Proof.Proofs
end

section
/-!
PROOFS. The family 30_encoding, the blob: the layout of what HUFC makes of a non-empty input. The rules of byte strings and
packed bits come first, then those of the frequency table, its order and what its counts sum to, then the layout of any blob
and the statement.
-/

namespace Sys2Proof.Proofs

open Sys2Proof.Machine Sys2Proof.Claims

/-! ### Byte strings -/

theorem byteAt_append_left {x : List Byte} (y : List Byte) {a : Nat} (h : a < x.length) : byteAt (x ++ y) a = byteAt x a :=
  List.getD_append x y 0 a h

theorem byteAt_append_right (x y : List Byte) (a : Nat) : byteAt (x ++ y) (x.length + a) = byteAt y a := by
  rw [byteAt, List.getD_append_right _ _ _ _ (Nat.le_add_right ..), Nat.add_sub_cancel_left]
  rfl

theorem be32At_append_left {x : List Byte} (y : List Byte) {a : Nat} (h : a + 3 < x.length) :
    be32At (x ++ y) a = be32At x a := by
  unfold be32At
  rw [byteAt_append_left y (by omega), byteAt_append_left y (by omega), byteAt_append_left y (by omega),
    byteAt_append_left y h]

theorem be32At_append_right (x y : List Byte) (a : Nat) : be32At (x ++ y) (x.length + a) = be32At y a := by
  simp only [be32At, Nat.add_assoc, byteAt_append_right]

theorem be32At_cons_succ (b : Byte) (x : List Byte) (a : Nat) : be32At (b :: x) (a + 1) = be32At x a := by
  simp only [be32At, byteAt, Nat.add_right_comm a 1, List.getD_cons_succ]

/-- A big-endian field reads back the word it was written from (00_scope.md R11). -/
theorem be32At_bytesBE32 (v : Word) : be32At (bytesBE32 v) 0 = v := by
  show v.extractLsb' 24 8 ++ v.extractLsb' 16 8 ++ v.extractLsb' 8 8 ++ v.extractLsb' 0 8 = v
  rw [BitVec.extractLsb'_append_extractLsb'_eq_extractLsb' (start₁ := 16) (start₂ := 24) rfl,
    BitVec.extractLsb'_append_extractLsb'_eq_extractLsb' (start₁ := 8) (start₂ := 16) rfl,
    BitVec.extractLsb'_append_extractLsb'_eq_extractLsb' (start₁ := 0) (start₂ := 8) rfl]
  exact BitVec.extractLsb'_eq_self

/-! ### Packed bits (30_encoding.md R104, 40_huffman.md R130) -/

theorem packedByte_getLsbD (bits : List Bool) (q : Nat) {r : Nat} (hr : r < 8) :
    (packedByte bits q).getLsbD (7 - r) = bits.getD (8 * q + r) false := by
  interval_cases r <;> simp [packedByte, List.range_succ]

theorem length_packBits (bits : List Bool) : (packBits bits).length = packedLength bits.length := by
  simp [packBits]

theorem byteAt_packBits (bits : List Bool) {q : Nat} (hq : q < packedLength bits.length) :
    byteAt (packBits bits) q = packedByte bits q := by
  simp [byteAt, packBits, hq]

/-- Bit `m` of a bit string, or of its padding, is bit 7 - m mod 8 of packed byte m / 8. -/
theorem byteAt_packBits_getLsbD (bits : List Bool) {m : Nat} (hm : m < 8 * packedLength bits.length) :
    (byteAt (packBits bits) (m / 8)).getLsbD (7 - m % 8) = bits.getD m false := by
  rw [byteAt_packBits bits (by omega), packedByte_getLsbD bits _ (Nat.mod_lt _ (by decide)), Nat.div_add_mod]

theorem paddingCount_lt (nbits : Nat) : paddingCount nbits < 8 := by
  unfold paddingCount packedLength
  omega

/-! ### The serialized table (30_encoding.md R101, R102) -/

theorem length_flatMap_entryBytes (f : FreqTable) : (f.flatMap Huffman.entryBytes).length = 5 * f.length := by
  simp [List.length_flatMap, Huffman.entryBytes, bytesBE32, Nat.mul_comm]

theorem length_tableBytes (f : FreqTable) : (Huffman.tableBytes f).length = 4 + 5 * f.length := by
  rw [Huffman.tableBytes, List.length_append, length_flatMap_entryBytes]
  rfl

/-- tableLen is the first field of a blob with the table `f`. -/
theorem be32At_tableBytes (f : FreqTable) (y : List Byte) :
    be32At (Huffman.tableBytes f ++ y) 0 = BitVec.ofNat 32 (5 * f.length) := by
  rw [Huffman.tableBytes, List.append_assoc, be32At_append_left _ (by decide : 0 + 3 < 4), be32At_bytesBE32]

/-- Entry `e` of a serialized table begins at byte 4 + 5e. -/
theorem tableBytes_split (f : FreqTable) {e : Nat} (he : e < f.length) :
    ∃ pre post, Huffman.tableBytes f = pre ++ (Huffman.entryBytes f[e] ++ post) ∧ pre.length = 4 + 5 * e := by
  refine ⟨bytesBE32 (BitVec.ofNat 32 (5 * f.length)) ++ (f.take e).flatMap Huffman.entryBytes,
    (f.drop (e + 1)).flatMap Huffman.entryBytes, ?_, ?_⟩
  · rw [List.append_assoc, ← List.flatMap_cons, ← List.drop_eq_getElem_cons he, ← List.flatMap_append,
      List.take_append_drop]
    rfl
  · rw [List.length_append, length_flatMap_entryBytes, List.length_take_of_le he.le]
    rfl

theorem tableBytes_entry (f : FreqTable) (y : List Byte) {e : Nat} (he : e < f.length) :
    byteAt (Huffman.tableBytes f ++ y) (4 + 5 * e) = f[e].1 ∧ be32At (Huffman.tableBytes f ++ y) (5 + 5 * e) = f[e].2 := by
  obtain ⟨pre, post, htable, hpre⟩ := tableBytes_split f he
  have hentry : 5 + 5 * e = pre.length + 1 := by omega
  rw [htable, List.append_assoc, List.append_assoc, ← hpre, hentry, be32At_append_right]
  refine ⟨byteAt_append_right pre _ 0, ?_⟩
  rw [Huffman.entryBytes, List.cons_append, be32At_cons_succ, be32At_append_left _ (by decide : 0 + 3 < 4), be32At_bytesBE32]

/-! ### The frequency table (40_huffman.md R120) -/

theorem freqOf_concat (x : List Byte) (b : Byte) : Huffman.freqOf (x ++ [b]) = Huffman.bump (Huffman.freqOf x) b :=
  List.foldl_append

/-- The sum of count times weight over a frequency table. -/
def weight (g : Byte → Nat) (f : FreqTable) : Nat := (f.map fun e => e.2.toNat * g e.1).sum

theorem weight_cons (g : Byte → Nat) (e : Byte × Word) (f : FreqTable) :
    weight g (e :: f) = e.2.toNat * g e.1 + weight g f := rfl

theorem count_le_weight_one {f : FreqTable} {e : Byte × Word} (he : e ∈ f) : e.2.toNat ≤ weight (fun _ => 1) f :=
  List.le_sum_of_mem (List.mem_map.2 ⟨e, he, Nat.mul_one _⟩)

/-- Counting one more byte adds its weight, where no count overflows. -/
theorem weight_bump (g : Byte → Nat) {f : FreqTable} (b : Byte) (hf : ∀ e ∈ f, e.2.toNat + 1 < 2 ^ 32) :
    weight g (Huffman.bump f b) = weight g f + g b := by
  induction f with
  | nil => simp [Huffman.bump, weight]
  | cons e f ih =>
    obtain ⟨c, n⟩ := e
    obtain ⟨hn, hf⟩ := List.forall_mem_cons.1 hf
    unfold Huffman.bump
    split_ifs with hlt heq
    · simp [weight_cons, Nat.add_comm]
    · have hsucc : (n + 1).toNat = n.toNat + 1 := by
        rw [BitVec.toNat_add]
        exact Nat.mod_eq_of_lt hn
      simp only [weight_cons, hsucc, heq, Nat.succ_mul]
      omega
    · rw [weight_cons, weight_cons, ih hf, Nat.add_assoc]

/-- The counts of a byte string weigh what its bytes weigh together. -/
theorem weight_freqOf (g : Byte → Nat) {x : List Byte} (hx : x.length < 2 ^ 32) :
    weight g (Huffman.freqOf x) = (x.map g).sum := by
  induction x using List.reverseRecOn generalizing g with
  | nil => rfl
  | append_singleton x b ih =>
    rw [List.length_append, List.length_singleton] at hx
    have hcounts : ∀ e ∈ Huffman.freqOf x, e.2.toNat + 1 < 2 ^ 32 := by
      intro e he
      have hle := count_le_weight_one he
      rw [ih _ (by omega)] at hle
      simp at hle
      omega
    rw [freqOf_concat, weight_bump g b hcounts, ih g (by omega)]
    simp

theorem mem_keys_bump {f : FreqTable} {b c : Byte} (h : c ∈ (Huffman.bump f b).map Prod.fst) :
    c = b ∨ c ∈ f.map Prod.fst := by
  induction f with
  | nil => simpa [Huffman.bump] using h
  | cons e f ih =>
    unfold Huffman.bump at h
    split_ifs at h with hlt heq
    · simpa using h
    · exact .inr h
    · rcases List.mem_cons.1 h with h | h
      · exact .inr (h ▸ List.mem_cons_self)
      · exact (ih h).imp_right (List.mem_cons_of_mem _)

/-- The byte values of a frequency table stay ascending. -/
theorem ascending_bump {f : FreqTable} (b : Byte) (h : (f.map Prod.fst).Pairwise (· < ·)) :
    ((Huffman.bump f b).map Prod.fst).Pairwise (· < ·) := by
  induction f with
  | nil => exact List.pairwise_singleton ..
  | cons e f ih =>
    obtain ⟨hhead, htail⟩ := List.pairwise_cons.1 h
    unfold Huffman.bump
    split_ifs with hlt heq
    · refine List.pairwise_cons.2 ⟨fun c hc => ?_, h⟩
      rcases List.mem_cons.1 hc with rfl | hc
      · exact hlt
      · exact BitVec.lt_trans hlt (hhead c hc)
    · exact h
    · refine List.pairwise_cons.2 ⟨fun c hc => ?_, ih htail⟩
      rcases mem_keys_bump hc with rfl | hc
      · exact BitVec.lt_of_le_ne (BitVec.not_lt.1 hlt) (Ne.symm heq)
      · exact hhead c hc

theorem ascending_freqOf (x : List Byte) : ((Huffman.freqOf x).map Prod.fst).Pairwise (· < ·) := by
  induction x using List.reverseRecOn with
  | nil => exact .nil
  | append_singleton x b ih => exact freqOf_concat x b ▸ ascending_bump b ih

/-- A table with ascending byte values has at most 256 entries. -/
theorem length_le_of_ascending {f : FreqTable} (h : (f.map Prod.fst).Pairwise (· < ·)) : f.length ≤ 256 := by
  have hnodup : (f.map Prod.fst).Nodup := h.imp BitVec.ne_of_lt
  simpa using (hnodup.map BitVec.toFin_injective).length_le_card

/-! ### The blob (30_encoding.md R100) -/

/-- The blob of the bytes `x` under the tables HUFC builds for it. -/
theorem encoderBlob_eq (h : Hidden) (x : List Byte) :
    Huffman.encoderBlob (Huffman.encoderTables h x) x = Huffman.blobOf (Huffman.freqOf x) (coded (Huffman.freqOf x) x) :=
  rfl

theorem length_blobOf (f : FreqTable) (bits : List Bool) :
    (Huffman.blobOf f bits).length = 4 + 5 * f.length + 1 + packedLength bits.length := by
  rw [Huffman.blobOf, List.length_append, List.length_cons, length_tableBytes, length_packBits]
  omega

theorem byteAt_blobOf_padding (f : FreqTable) (bits : List Bool) :
    byteAt (Huffman.blobOf f bits) (4 + 5 * f.length) = BitVec.ofNat 8 (paddingCount bits.length) := by
  rw [← length_tableBytes]
  exact byteAt_append_right _ _ 0

theorem byteAt_blobOf_packed (f : FreqTable) (bits : List Bool) (q : Nat) :
    byteAt (Huffman.blobOf f bits) (5 + 5 * f.length + q) = byteAt (packBits bits) q := by
  rw [show 5 + 5 * f.length + q = (Huffman.tableBytes f).length + (q + 1) by rw [length_tableBytes]; omega]
  exact byteAt_append_right _ _ (q + 1)

/-- B is the sum of count times code length (40_huffman.md R129). -/
theorem length_coded_freqOf {x : List Byte} (hx : x.length < 2 ^ 32) :
    (coded (Huffman.freqOf x) x).length =
      ((Huffman.freqOf x).map fun e => e.2.toNat * (codeOf (Huffman.freqOf x) e.1).length).sum :=
  List.length_flatMap.trans (weight_freqOf (fun b => (codeOf (Huffman.freqOf x) b).length) hx).symm

/-! ### The statement -/

/-- Settles O43: the blob is laid out by its three parts, and its table and bit string count the same bytes. -/
theorem hufcBlobLayout : Obligations.HufcBlobLayout := by
  intro h x _ hx
  dsimp only
  rw [encoderBlob_eq, ← length_coded_freqOf hx]
  have hlen : (Huffman.freqOf x).length ≤ 256 := length_le_of_ascending (ascending_freqOf x)
  refine ⟨rfl, length_blobOf _ _, ?_, fun e he => tableBytes_entry _ _ he, ?_, fun m hm => ?_⟩
  · rw [Huffman.blobOf, be32At_tableBytes, BitVec.toNat_ofNat]
    omega
  · rw [byteAt_blobOf_padding, BitVec.toNat_ofNat]
    exact Nat.mod_eq_of_lt ((paddingCount_lt _).trans (by decide))
  · rw [byteAt_blobOf_packed]
    exact byteAt_packBits_getLsbD _ hm

end Sys2Proof.Proofs
end

section
/-!
PROOFS. The family 40_huffman, the ends of the two commands in the words of the statements: a body's completion gives the
state its command ends in.
-/

namespace Sys2Proof.Proofs

open Sys2Proof.Machine Sys2Proof.Claims

/-! ### The ends of a command -/

/-- A body's success is the command's (42_control.md R193). -/
theorem finish_completedWith {s : State} {r : Hidden × Completion} {out : List Byte} (e : DstEffect)
    (hr : EndsWithin s.hidden s.input.length s.params.dstCap r) (hend : r.2 = .success out) (hout : out.length < 2 ^ 32) :
    CompletedWith s (s.finish e r) out := by
  have hkeeps := commandKeeps_of_commandEnd (finish_commandEnd e hr)
  obtain ⟨h, c⟩ := r
  obtain rfl : c = .success out := hend
  rw [State.finish_success] at hkeeps ⊢
  refine ⟨rfl, Nat.mod_eq_of_lt hout, rfl, rfl, fun a ha => ?_, fun a ha => ?_, hkeeps⟩
  · rw [State.complete_dstByte, dif_pos ha]
  · rw [State.complete_dstByte, dif_neg (not_lt.2 ha)]
    rfl

/-- A body's error is the command's, at the numeric kind and cause (60_exceptions.md R213). -/
theorem finish_failedWith {s : State} {r : Hidden × Completion} {k : ErrKind} {c : Cause} {pos : Nat} (e : DstEffect)
    (hr : EndsWithin s.hidden s.input.length s.params.dstCap r) (hend : r.2 = .error k c pos) :
    FailedWith s (s.finish e r) (kindCode k).toNat (causeCode c).toNat pos := by
  have hkeeps := commandKeeps_of_commandEnd (finish_commandEnd e hr)
  have hpos : pos < 2 ^ 32 := by
    have hbound := hr.completion
    rw [hend, s.input_length] at hbound
    exact hbound.2.2.trans_lt s.hidden.lenL.isLt
  obtain ⟨h, c'⟩ := r
  obtain rfl : c' = .error k c pos := hend
  rw [State.finish_error] at hkeeps ⊢
  refine ⟨?_, State.raise_dstLen .., ?_, State.raise_doneIp .., hkeeps⟩
  · rw [State.raise_status, statusError_eq_errorWord]
  · rw [State.raise_errPos, BitVec.toNat_ofNat, Nat.mod_eq_of_lt hpos]

/-- An error that keeps DST leaves every byte of it as it was (60_exceptions.md R213). -/
theorem finish_error_dstKept {s : State} {r : Hidden × Completion} {k : ErrKind} {c : Cause} {pos : Nat}
    (hend : r.2 = .error k c pos) : DstKept s (s.finish .kept r) := by
  obtain ⟨h, c'⟩ := r
  obtain rfl : c' = .error k c pos := hend
  exact fun _ => rfl

theorem finish_hidden (s : State) (e : DstEffect) (r : Hidden × Completion) : (s.finish e r).hidden = r.1 := by
  rcases State.finish_cases s e r with ⟨out, -, h⟩ | ⟨k, c, pos, -, h⟩ <;> simp [h]

theorem input_eq_nil_iff (s : State) : s.input = [] ↔ s.hidden.lenL = 0 := by
  rw [← List.length_eq_zero_iff, State.input_length]
  exact BitVec.toNat_inj (y := 0)

/-- A latched length is a 32-bit number. -/
theorem length_input_lt (s : State) : s.input.length < 2 ^ 32 :=
  s.input_length ▸ s.hidden.lenL.isLt

/-! ### HUFC and HUFD -/

section
variable {s : State} {out : List Byte} {k : ErrKind} {c : Cause} {pos : Nat} (hfits : Fits s)
include hfits

theorem hufd_completes (hend : (Huffman.decompress s.hidden s.input s.params.dstCap).2 = .success out)
    (hout : out.length < 2 ^ 32) : ∃ t, exec .hufd s = .next t ∧ CompletedWith s t out :=
  ⟨_, execHufd_of_fits hfits, finish_completedWith .lost (huffman_decompress_endsWithin ..) hend hout⟩

theorem hufd_fails (hend : (Huffman.decompress s.hidden s.input s.params.dstCap).2 = .error k c pos) :
    ∃ t, exec .hufd s = .next t ∧ FailedWith s t (kindCode k).toNat (causeCode c).toNat pos :=
  ⟨_, execHufd_of_fits hfits, finish_failedWith .lost (huffman_decompress_endsWithin ..) hend⟩

theorem hufc_completes (hend : (Huffman.compress s.hidden s.input s.params.dstCap).2 = .success out)
    (hout : out.length < 2 ^ 32) : ∃ t, exec .hufc s = .next t ∧ CompletedWith s t out :=
  ⟨_, execHufc_of_fits hfits, finish_completedWith .kept (huffman_compress_endsWithin ..) hend hout⟩

theorem hufc_fails (hend : (Huffman.compress s.hidden s.input s.params.dstCap).2 = .error k c pos) :
    ∃ t, exec .hufc s = .next t ∧ FailedWith s t (kindCode k).toNat (causeCode c).toNat pos ∧ DstKept s t :=
  ⟨_, execHufc_of_fits hfits, finish_failedWith .kept (huffman_compress_endsWithin ..) hend, finish_error_dstKept hend⟩

end

/-- HUFC of a non-empty input that has room for its blob gives the blob (40_huffman.md R132). -/
theorem compress_success (h : Hidden) {x : List Byte} {cap : Nat} (hx : x ≠ [])
    (hcap : (Huffman.encoderBlob (Huffman.encoderTables h x) x).length ≤ cap) :
    (Huffman.compress h x cap).2 = .success (Huffman.encoderBlob (Huffman.encoderTables h x) x) := by
  rw [Huffman.compress, if_neg hx, if_neg (not_lt.2 hcap)]

theorem compress_overflow (h : Hidden) {x : List Byte} {cap : Nat} (hx : x ≠ [])
    (hcap : cap < (Huffman.encoderBlob (Huffman.encoderTables h x) x).length) :
    (Huffman.compress h x cap).2 = .error .compressionFailed .outOverflow 0 := by
  rw [Huffman.compress, if_neg hx, if_pos hcap]

/-- HUFC of a non-empty input leaves its table in FREQ, whether or not its blob fits. -/
theorem compress_freq (h : Hidden) {x : List Byte} (cap : Nat) (hx : x ≠ []) :
    (Huffman.compress h x cap).1.freq = Huffman.freqOf x := by
  rw [Huffman.compress, if_neg hx]
  split_ifs <;> rfl

/-- A legal DST holds fewer than 2^32 bytes (00_scope.md R5). -/
theorem lt_of_le_dstCap {p : Params} (hp : p.legal) {n : Nat} (hn : n ≤ p.dstCap) : n < 2 ^ 32 :=
  toNat_length_of_le hp hn ▸ (BitVec.ofNat 32 n).isLt

/-! ### The statements -/

/-- Every command ends an empty input, which passes the length check, as a success without output. -/
theorem empty_completion {i : Instr} (hi : isCommand i = true) {s : State} (hlen : s.hidden.lenL = 0) :
    ∃ e r, EndsWithin s.hidden s.input.length s.params.dstCap r ∧ r.2 = .success [] ∧ exec i s = .next (s.finish e r) := by
  have hinput : s.input = [] := (input_eq_nil_iff s).2 hlen
  have hfits : s.hidden.lenL.toNat ≤ s.params.srcCap := by simp [hlen]
  cases i with
  | hufc => exact ⟨_, _, huffman_compress_endsWithin .., by rw [hinput]; rfl, execHufc_of_fits hfits⟩
  | hufd => exact ⟨_, _, huffman_decompress_endsWithin .., by rw [hinput]; rfl, execHufd_of_fits hfits⟩
  | lzc w =>
    exact ⟨_, _, encodeLoop_endsWithin s.hidden s.input w.toNat _ _ _ (Nat.zero_le _), by rw [hinput]; rfl,
      execLzc_of_fits hfits⟩
  | lzd => exact ⟨_, _, lz77_decompress_endsWithin .., by rw [hinput]; rfl, execLzd_of_fits hfits⟩
  | start | sreset | intack | wrIntEn | wrCmdSrcLen | rdReg | winAccess => cases hi

/-- Settles O38: every command's body ends an empty input as a success without output. -/
theorem emptyInputGivesEmptyOutput : Obligations.EmptyInputGivesEmptyOutput := by
  intro s i hi hlen
  obtain ⟨e, r, hr, hend, hexec⟩ := empty_completion hi hlen
  exact ⟨_, hexec, finish_completedWith e hr hend (by decide)⟩

/-- Settles O44: HUFC's body compares the blob's length with DST_CAP. -/
theorem hufcWritesItsBlobOrOverflows : Obligations.HufcWritesItsBlobOrOverflows := by
  intro s hlegal hfits hlen
  have hx : s.input ≠ [] := (input_eq_nil_iff s).not.2 hlen
  exact ⟨fun hcap => hufc_completes hfits (compress_success s.hidden hx hcap) (lt_of_le_dstCap hlegal hcap),
    fun hcap => hufc_fails hfits (compress_overflow s.hidden hx hcap)⟩

end Sys2Proof.Proofs
end

section
/-!
PROOFS. The family 40_huffman, the frequency table: what it counts, and that it is a legal table.
-/

namespace Sys2Proof.Proofs

open Sys2Proof.Machine Sys2Proof.Claims

theorem freqAt_cons (c : Byte) (n : Word) (f : FreqTable) (b : Byte) :
    Huffman.freqAt ((c, n) :: f) b = if b = c then n else Huffman.freqAt f b := by
  by_cases h : b = c
  · simp [Huffman.freqAt, h]
  · simp [Huffman.freqAt, List.lookup_cons, beq_eq_false_iff_ne.2 h, h]

theorem freqAt_of_not_mem {f : FreqTable} {b : Byte} (h : b ∉ f.map Prod.fst) : Huffman.freqAt f b = 0 := by
  induction f with
  | nil => rfl
  | cons e f ih =>
    rw [List.map_cons, List.mem_cons, not_or] at h
    rw [freqAt_cons, if_neg h.1, ih h.2]

/-- In a table of distinct byte values, weighing one byte value alone gives its count. -/
theorem weight_single {f : FreqTable} (h : (f.map Prod.fst).Nodup) (b : Byte) :
    weight (fun c => if c = b then 1 else 0) f = (Huffman.freqAt f b).toNat := by
  induction f with
  | nil => rfl
  | cons e f ih =>
    obtain ⟨c, n⟩ := e
    obtain ⟨hc, hf⟩ := List.nodup_cons.1 h
    rw [weight_cons, freqAt_cons, ih hf]
    by_cases hb : c = b
    · subst hb
      simp [freqAt_of_not_mem hc]
    · simp [hb, Ne.symm hb]

theorem nodup_of_ascending {f : FreqTable} (h : (f.map Prod.fst).Pairwise (· < ·)) : (f.map Prod.fst).Nodup :=
  h.imp BitVec.ne_of_lt

theorem sum_indicator_eq_count (x : List Byte) (b : Byte) : (x.map fun c => if c = b then 1 else 0).sum = x.count b := by
  induction x with
  | nil => rfl
  | cons c x ih =>
    rw [List.map_cons, List.sum_cons, List.count_cons, ih, Nat.add_comm]
    simp only [beq_iff_eq]

/-- FREQ[b] is the number of times `b` occurs (40_huffman.md R120). -/
theorem freqAt_freqOf {x : List Byte} (hx : x.length < 2 ^ 32) (b : Byte) :
    (Huffman.freqAt (Huffman.freqOf x) b).toNat = x.count b := by
  rw [← weight_single (nodup_of_ascending (ascending_freqOf x)), weight_freqOf _ hx, sum_indicator_eq_count]

theorem sum_counts_freqOf {x : List Byte} (hx : x.length < 2 ^ 32) :
    ((Huffman.freqOf x).map fun e => e.2.toNat).sum = x.length := by
  simpa [weight] using weight_freqOf (fun _ => 1) hx

/-- A byte value of the input is a symbol of its table. -/
theorem mem_keys_freqOf {x : List Byte} (hx : x.length < 2 ^ 32) {b : Byte} (hb : b ∈ x) :
    b ∈ (Huffman.freqOf x).map Prod.fst := by
  by_contra hmem
  have hcount := freqAt_freqOf hx b
  rw [freqAt_of_not_mem hmem] at hcount
  exact (List.count_pos_iff.2 hb).ne hcount

theorem mem_of_mem_keys_freqOf {x : List Byte} {b : Byte} (hb : b ∈ (Huffman.freqOf x).map Prod.fst) : b ∈ x := by
  induction x using List.reverseRecOn with
  | nil => cases hb
  | append_singleton x c ih =>
    rw [freqOf_concat] at hb
    rcases mem_keys_bump hb with rfl | hb
    · exact List.mem_concat_self
    · exact List.mem_append_left _ (ih hb)

/-- A list with distinct keys finds each of its pairs by its key. -/
theorem lookup_of_mem {α : Type} {l : List (Byte × α)} (h : (l.map Prod.fst).Nodup) {b : Byte} {v : α} (hb : (b, v) ∈ l) :
    l.lookup b = some v := by
  obtain ⟨l₁, l₂, rfl⟩ := List.append_of_mem hb
  refine List.lookup_eq_some_iff.2 ⟨l₁, l₂, rfl, fun p hp => bne_iff_ne.2 ?_⟩
  rw [List.map_append, List.nodup_append] at h
  exact (h.2.2 p.1 (List.mem_map_of_mem hp) b List.mem_cons_self).symm

/-- The frequency table of a non-empty input is a legal table (30_encoding.md R102). -/
theorem tableOk_freqOf {x : List Byte} (hx : x ≠ []) (hlen : x.length < 2 ^ 32) : TableOk (Huffman.freqOf x) := by
  refine ⟨?_, ascending_freqOf x, ?_⟩
  · obtain ⟨b, hb⟩ := List.exists_mem_of_ne_nil x hx
    exact List.map_eq_nil_iff.not.1 (List.ne_nil_of_mem (mem_keys_freqOf hlen hb))
  · rintro ⟨b, n⟩ he rfl
    have hlookup := lookup_of_mem (nodup_of_ascending (ascending_freqOf x)) he
    have hcount := freqAt_freqOf hlen b
    rw [Huffman.freqAt, hlookup] at hcount
    exact (List.count_pos_iff.2 (mem_of_mem_keys_freqOf (List.mem_map_of_mem he))).ne hcount

/-! ### The statement -/

/-- Settles O39: HUFC leaves the table of its input in FREQ, whatever its completion. -/
theorem hufcCountsTheInput : Obligations.HufcCountsTheInput := by
  intro s hfits hlen
  have hx : s.input ≠ [] := (input_eq_nil_iff s).not.2 hlen
  have hlt := length_input_lt s
  refine ⟨_, execHufc_of_fits hfits, ?_⟩
  rw [finish_hidden, compress_freq s.hidden _ hx, ← s.input_length]
  exact ⟨freqAt_freqOf hlt, sum_counts_freqOf hlt, tableOk_freqOf hx hlt⟩

end Sys2Proof.Proofs
end

section
/-!
PROOFS. The family 40_huffman, the tree builder: the merging loop as an induction over arena and pool, and the rules that
every pass of it keeps.
-/

namespace Sys2Proof.Proofs

open Sys2Proof.Machine Sys2Proof.Claims

/-! ### The key order (40_huffman.md R125) -/

/-- The key of a node: its freq, then its index. -/
def nodeKey (node : List Node) (x : Nat) : Nat ×ₗ Nat := toLex (freqNumber node x, x)

theorem keyBefore_iff (node : List Node) (x y : Nat) : KeyBefore node x y ↔ nodeKey node x < nodeKey node y :=
  (Prod.Lex.toLex_lt_toLex (x := (freqNumber node x, x)) (y := (freqNumber node y, y))).symm

theorem keyLt_iff (node : List Node) (x y : Nat) : Huffman.keyLt node x y = true ↔ KeyBefore node x y := by
  simp [Huffman.keyLt, KeyBefore, freqNumber, BitVec.lt_def, ← BitVec.toNat_inj]

theorem keyBefore_trans {node : List Node} {x y z : Nat} (h : KeyBefore node x y) (h' : KeyBefore node y z) :
    KeyBefore node x z := by
  rw [keyBefore_iff] at h h' ⊢
  exact h.trans h'

theorem keyBefore_of_not {node : List Node} {x y : Nat} (h : ¬ KeyBefore node y x) (hne : y ≠ x) : KeyBefore node x y := by
  rw [keyBefore_iff] at h ⊢
  refine lt_of_le_of_ne (not_lt.1 h) fun heq => hne ?_
  exact congrArg (fun key => (ofLex key).2) heq.symm

theorem leastKey_cons_of_none {node : List Node} {pool : List Nat} (x : Nat) (h : Huffman.leastKey node pool = none) :
    Huffman.leastKey node (x :: pool) = some x := by
  simp [Huffman.leastKey, h]

theorem leastKey_cons_of_some {node : List Node} {pool : List Nat} {y : Nat} (x : Nat)
    (h : Huffman.leastKey node pool = some y) :
    Huffman.leastKey node (x :: pool) = if Huffman.keyLt node y x then some y else some x := by
  simp [Huffman.leastKey, h]

theorem exists_leastKey (node : List Node) {pool : List Nat} (h : pool ≠ []) :
    ∃ a, Huffman.leastKey node pool = some a := by
  obtain ⟨x, pool, rfl⟩ := List.exists_cons_of_ne_nil h
  cases hpool : Huffman.leastKey node pool with
  | none => exact ⟨x, leastKey_cons_of_none x hpool⟩
  | some y =>
    rw [leastKey_cons_of_some x hpool]
    split_ifs
    · exact ⟨y, rfl⟩
    · exact ⟨x, rfl⟩

/-- The least element of a pool is in it and before every other (40_huffman.md R122). -/
theorem leastKey_spec {node : List Node} {pool : List Nat} {a : Nat} (h : Huffman.leastKey node pool = some a) :
    a ∈ pool ∧ ∀ x ∈ pool, x ≠ a → KeyBefore node a x := by
  induction pool generalizing a with
  | nil => cases h
  | cons x pool ih =>
    by_cases hnil : pool = []
    · subst hnil
      obtain rfl : x = a := Option.some.inj h
      simp
    · obtain ⟨y, hy⟩ := exists_leastKey node hnil
      obtain ⟨hmem, hleast⟩ := ih hy
      rw [leastKey_cons_of_some x hy] at h
      split_ifs at h with hkey <;> obtain rfl := Option.some.inj h <;> rw [keyLt_iff] at hkey
      · exact ⟨List.mem_cons_of_mem x hmem, List.forall_mem_cons.2 ⟨fun _ => hkey, hleast⟩⟩
      · refine ⟨List.mem_cons_self, List.forall_mem_cons.2 ⟨fun hne => absurd rfl hne, fun z hz hne => ?_⟩⟩
        by_cases hzy : z = y
        · subst hzy
          exact keyBefore_of_not hkey hne
        · by_cases hyx : y = x
          · exact hyx ▸ hleast z hz hzy
          · exact keyBefore_trans (keyBefore_of_not hkey hyx) (hleast z hz hzy)

/-! ### The merging loop (40_huffman.md R122) -/

/-- `a` and `b` are the first and the second of the pool, and `rest` are the others. -/
structure TwoLeast (node : List Node) (pool : List Nat) (a b : Nat) (rest : List Nat) : Prop where
  perm : pool.Perm (a :: b :: rest)
  first : ∀ x ∈ pool, x ≠ a → KeyBefore node a x
  second : ∀ x ∈ rest, x ≠ b → KeyBefore node b x

theorem mergeLoop_singleton (fuel : Nat) (node : List Node) (r : Nat) :
    Huffman.mergeLoop fuel node [r] = { node := node, root := BitVec.ofNat 9 r } := by
  cases fuel <;> simp [Huffman.mergeLoop, Huffman.leastKey]

/-- A pass over a pool of two or more merges the two least. -/
theorem mergeLoop_pass (fuel : Nat) (node : List Node) {pool : List Nat} (h2 : 2 ≤ pool.length) :
    ∃ a b rest, TwoLeast node pool a b rest ∧
      Huffman.mergeLoop (fuel + 1) node pool =
        Huffman.mergeLoop fuel (node ++ [Huffman.mergeNode node a b]) (rest ++ [node.length]) := by
  obtain ⟨a, ha⟩ := exists_leastKey node (List.ne_nil_of_length_pos (by omega : 0 < pool.length))
  obtain ⟨hmema, hfirst⟩ := leastKey_spec ha
  have herase : 0 < (pool.erase a).length := by
    rw [List.length_erase_of_mem hmema]
    omega
  obtain ⟨b, hb⟩ := exists_leastKey node (List.ne_nil_of_length_pos herase)
  obtain ⟨hmemb, hsecond⟩ := leastKey_spec hb
  refine ⟨a, b, (pool.erase a).erase b, ⟨?_, hfirst, fun x hx => hsecond x (List.mem_of_mem_erase hx)⟩, ?_⟩
  · exact (List.perm_cons_erase hmema).trans ((List.perm_cons_erase hmemb).cons a)
  · simp [Huffman.mergeLoop, ha, hb]

/-- What every pass of the merging loop keeps holds when one node is left in the pool, the root. -/
theorem mergeLoop_induct {P : List Node → List Nat → Prop}
    (hstep : ∀ node pool a b rest, P node pool → TwoLeast node pool a b rest →
      P (node ++ [Huffman.mergeNode node a b]) (rest ++ [node.length]))
    {fuel : Nat} {node : List Node} {pool : List Nat} (hP : P node pool) (hpos : 0 < pool.length)
    (hfuel : pool.length ≤ fuel + 1) :
    ∃ node' r, P node' [r] ∧ Huffman.mergeLoop fuel node pool = { node := node', root := BitVec.ofNat 9 r } := by
  induction fuel generalizing node pool with
  | zero =>
    obtain ⟨r, rfl⟩ := List.length_eq_one_iff.1 (le_antisymm hfuel hpos)
    exact ⟨node, r, hP, rfl⟩
  | succ fuel ih =>
    by_cases h1 : pool.length = 1
    · obtain ⟨r, rfl⟩ := List.length_eq_one_iff.1 h1
      exact ⟨node, r, hP, mergeLoop_singleton _ node r⟩
    · obtain ⟨a, b, rest, hleast, hpass⟩ := mergeLoop_pass fuel node (by omega : 2 ≤ pool.length)
      have hlen := hleast.perm.length_eq
      simp only [List.length_cons] at hlen
      exact hpass ▸ ih (hstep _ _ _ _ _ hP hleast) (by simp) (by simp; omega)

theorem length_leaves (f : FreqTable) : (Huffman.leaves f).length = f.length := by
  simp [Huffman.leaves]

theorem leaves_getElem? (f : FreqTable) {e : Nat} (he : e < f.length) :
    (Huffman.leaves f)[e]? = some (.leaf f[e].1 (f[e].2.setWidth 40)) := by
  simp [Huffman.leaves, he]

/-- The tree of two or more symbols is what the merging loop makes of the leaves. -/
theorem buildTree_eq_mergeLoop {f : FreqTable} (h2 : 2 ≤ f.length) :
    Huffman.buildTree f = Huffman.mergeLoop f.length (Huffman.leaves f) (List.range f.length) := by
  match f, h2 with
  | _ :: _ :: f, _ =>
    simp [Huffman.buildTree, Huffman.leaves]

theorem buildTree_induct {f : FreqTable} (h2 : 2 ≤ f.length) {P : List Node → List Nat → Prop}
    (hstart : P (Huffman.leaves f) (List.range f.length))
    (hstep : ∀ node pool a b rest, P node pool → TwoLeast node pool a b rest →
      P (node ++ [Huffman.mergeNode node a b]) (rest ++ [node.length])) :
    ∃ r, P (Huffman.buildTree f).node [r] ∧ (Huffman.buildTree f).root = BitVec.ofNat 9 r := by
  obtain ⟨node, r, hP, heq⟩ := mergeLoop_induct (fuel := f.length) hstep hstart (by simp; omega) (by simp)
  rw [buildTree_eq_mergeLoop h2, heq]
  exact ⟨r, hP, rfl⟩

/-! ### A node says the same in a longer arena -/

section
variable {node : List Node} (l : List Node) {x y k m n : Nat}

theorem freqNumber_append (hx : x < node.length) : freqNumber (node ++ l) x = freqNumber node x := by
  rw [freqNumber, Huffman.freqOfNode, List.getElem?_append_left hx]
  rfl

theorem keyBefore_append (hx : x < node.length) (hy : y < node.length) :
    KeyBefore (node ++ l) x y ↔ KeyBefore node x y := by
  rw [KeyBefore, freqNumber_append l hx, freqNumber_append l hy]
  rfl

theorem isChild_append (hm : m < node.length) : IsChild (node ++ l) m x ↔ IsChild node m x := by
  rw [IsChild, List.getElem?_append_left hm]
  rfl

theorem inPool_append (hn : n ≤ node.length) : InPool (node ++ l) k n x ↔ InPool node k n x :=
  and_congr_right fun _ => forall_congr' fun _ => forall_congr' fun _ => forall_congr' fun hm =>
    not_congr (isChild_append l (hm.trans_le hn))

end

/-! ### The rules of the arena -/

/-- Internal node `n` stands over the first and the second of its pool, its freq their sum (40_huffman.md R122, R126). -/
def MergesTwoLeast (node : List Node) (k n : Nat) : Prop :=
  ∃ a b g, node[n]? = some (.internal g (some (BitVec.ofNat 9 a)) (some (BitVec.ofNat 9 b))) ∧
    g.toNat = freqNumber node a + freqNumber node b ∧ InPool node k n a ∧ InPool node k n b ∧ KeyBefore node a b ∧
    ∀ x, InPool node k n x → x ≠ a → x ≠ b → KeyBefore node b x

theorem MergesTwoLeast.append {node : List Node} {k n : Nat} (h : MergesTwoLeast node k n) (l : List Node)
    (hn : n < node.length) : MergesTwoLeast (node ++ l) k n := by
  obtain ⟨a, b, g, hnode, hg, ha, hb, hab, hrest⟩ := h
  have hlt : ∀ {x}, InPool node k n x → x < node.length := fun hx => hx.1.trans hn
  refine ⟨a, b, g, ?_, ?_, (inPool_append l hn.le).2 ha, (inPool_append l hn.le).2 hb,
    (keyBefore_append l (hlt ha) (hlt hb)).2 hab, fun x hx hxa hxb => ?_⟩
  · rw [List.getElem?_append_left hn, hnode]
  · rw [freqNumber_append l (hlt ha), freqNumber_append l (hlt hb), hg]
  · have hx' := (inPool_append l hn.le).1 hx
    exact (keyBefore_append l (hlt hb) (hlt hx')).2 (hrest x hx' hxa hxb)

theorem ofNat_inj {a x : Nat} (ha : a < 512) (hx : x < 512) : BitVec.ofNat 9 a = BitVec.ofNat 9 x ↔ a = x := by
  rw [← BitVec.toNat_inj, BitVec.toNat_ofNat, BitVec.toNat_ofNat, Nat.mod_eq_of_lt ha, Nat.mod_eq_of_lt hx]

/-- The children of an internal node over `a` and `b`. -/
theorem isChild_iff {node : List Node} {n a b x : Nat} {g : BitVec 40} (ha : a < 512) (hb : b < 512)
    (hnode : node[n]? = some (.internal g (some (BitVec.ofNat 9 a)) (some (BitVec.ofNat 9 b)))) :
    IsChild node n x ↔ x = a ∨ x = b := by
  constructor
  · rintro ⟨g', l, r, hnode', hx, hlt⟩
    obtain ⟨rfl, rfl, rfl⟩ : g = g' ∧ some _ = l ∧ some _ = r := by simpa using hnode.symm.trans hnode'
    simpa only [Option.some.injEq, ofNat_inj ha hlt, ofNat_inj hb hlt, eq_comm] using hx
  · rintro (rfl | rfl)
    · exact ⟨_, _, _, hnode, .inl rfl, ha⟩
    · exact ⟨_, _, _, hnode, .inr rfl, hb⟩

/-- A node's children come before it in the arena. -/
theorem MergesTwoLeast.child_lt {node : List Node} {k n x : Nat} (h : MergesTwoLeast node k n) (hn : n ≤ 512)
    (hx : IsChild node n x) : x < n := by
  obtain ⟨a, b, g, hnode, -, ha, hb, -⟩ := h
  rcases (isChild_iff (ha.1.trans_le hn) (hb.1.trans_le hn) hnode).1 hx with rfl | rfl
  · exact ha.1
  · exact hb.1

/-- The tree of the table `f` in the making. -/
structure Merging (f : FreqTable) (node : List Node) (pool : List Nat) : Prop where
  leaf : ∀ e (h : e < f.length), node[e]? = some (.leaf f[e].1 (f[e].2.setWidth 40))
  length : node.length + pool.length = 2 * f.length
  leaves_le : f.length ≤ node.length
  nodup : pool.Nodup
  mem_pool : ∀ x, x ∈ pool ↔ InPool node f.length node.length x
  merged : ∀ n, f.length ≤ n → n < node.length → MergesTwoLeast node f.length n
  total : (pool.map (freqNumber node)).sum < 2 ^ 40

/-- A leaf's freq is its count, which 32 bits hold. -/
theorem freqNumber_leaves_lt (f : FreqTable) (x : Nat) : freqNumber (Huffman.leaves f) x < 2 ^ 32 := by
  by_cases hx : x < f.length
  · rw [freqNumber, Huffman.freqOfNode, leaves_getElem? f hx]
    simp [Huffman.nodeFreq, BitVec.toNat_setWidth]
    omega
  · rw [freqNumber, Huffman.freqOfNode, List.getElem?_eq_none (by rw [length_leaves]; omega)]
    decide

theorem merging_leaves {f : FreqTable} (hf : f.length ≤ 256) :
    Merging f (Huffman.leaves f) (List.range f.length) where
  leaf e he := leaves_getElem? f he
  length := by rw [length_leaves, List.length_range]; omega
  leaves_le := (length_leaves f).ge
  nodup := List.nodup_range
  mem_pool x := by
    rw [List.mem_range, InPool, length_leaves]
    exact ⟨fun hx => ⟨hx, fun m hm hm' => absurd hm' (not_lt.2 hm)⟩, And.left⟩
  merged n hn hn' := absurd hn' (not_lt.2 ((length_leaves f).le.trans hn))
  total := by
    have hsum := List.sum_le_card_nsmul ((List.range f.length).map (freqNumber (Huffman.leaves f))) (2 ^ 32 - 1) (by
      intro n hn
      obtain ⟨x, -, rfl⟩ := List.mem_map.1 hn
      exact Nat.le_sub_one_of_lt (freqNumber_leaves_lt f x))
    rw [List.length_map, List.length_range, smul_eq_mul] at hsum
    omega

theorem TwoLeast.mem_iff {node : List Node} {pool rest : List Nat} {a b : Nat} (hl : TwoLeast node pool a b rest) (x : Nat) :
    x ∈ pool ↔ x = a ∨ x = b ∨ x ∈ rest := by
  rw [hl.perm.mem_iff, List.mem_cons, List.mem_cons]

theorem Merging.lt_of_mem_pool {f : FreqTable} {node : List Node} {pool : List Nat} (hm : Merging f node pool) {x : Nat}
    (hx : x ∈ pool) : x < node.length :=
  ((hm.mem_pool x).1 hx).1

section
variable {f : FreqTable} {node : List Node} {pool rest : List Nat} {a b : Nat} (hm : Merging f node pool)
  (hl : TwoLeast node pool a b rest)
include hm hl

theorem Merging.lt_parts : a < node.length ∧ b < node.length ∧ ∀ x ∈ rest, x < node.length :=
  ⟨hm.lt_of_mem_pool ((hl.mem_iff a).2 (.inl rfl)), hm.lt_of_mem_pool ((hl.mem_iff b).2 (.inr (.inl rfl))),
    fun x hx => hm.lt_of_mem_pool ((hl.mem_iff x).2 (.inr (.inr hx)))⟩

theorem Merging.nodup_parts : a ≠ b ∧ a ∉ rest ∧ b ∉ rest ∧ rest.Nodup := by
  have h := hl.perm.nodup_iff.1 hm.nodup
  simpa [and_assoc] using h

/-- Two nodes of the pool leave room for one more in the arena. -/
theorem Merging.length_lt (hf : f.length ≤ 256) : node.length < 511 := by
  have hlen := hl.perm.length_eq
  have hsum := hm.length
  simp only [List.length_cons] at hlen
  omega

theorem Merging.sum_parts : freqNumber node a + (freqNumber node b + (rest.map (freqNumber node)).sum) < 2 ^ 40 := by
  have htotal := hm.total
  rwa [(hl.perm.map _).sum_eq] at htotal

/-- The merged node's freq is the sum of the two, which 40 bits hold. -/
theorem Merging.toNat_sum : (Huffman.freqOfNode node a + Huffman.freqOfNode node b).toNat =
    freqNumber node a + freqNumber node b := by
  have hsum := hm.sum_parts hl
  rw [BitVec.toNat_add]
  exact Nat.mod_eq_of_lt (by simp only [freqNumber] at hsum; omega)

theorem Merging.total_step :
    ((rest ++ [node.length]).map (freqNumber (node ++ [Huffman.mergeNode node a b]))).sum < 2 ^ 40 := by
  obtain ⟨-, -, hlt⟩ := hm.lt_parts hl
  have hrest : rest.map (freqNumber (node ++ [Huffman.mergeNode node a b])) = rest.map (freqNumber node) :=
    List.map_congr_left fun x hx => freqNumber_append _ (hlt x hx)
  have hnew : freqNumber (node ++ [Huffman.mergeNode node a b]) node.length = freqNumber node a + freqNumber node b := by
    rw [← hm.toNat_sum hl, freqNumber, Huffman.freqOfNode, List.getElem?_concat_length]
    rfl
  have hsum := hm.sum_parts hl
  rw [List.map_append, hrest, List.sum_append, List.map_singleton, hnew, List.sum_singleton]
  omega

theorem Merging.isChild_new (hf : f.length ≤ 256) (x : Nat) :
    IsChild (node ++ [Huffman.mergeNode node a b]) node.length x ↔ x = a ∨ x = b := by
  obtain ⟨ha, hb, -⟩ := hm.lt_parts hl
  have hlen := hm.length_lt hl hf
  exact isChild_iff (by omega) (by omega) (List.getElem?_concat_length ..)

/-- The pool after a pass: `a` and `b` are taken, and the merged node, which no node has as a child yet, is added. -/
theorem Merging.mem_pool_step (hf : f.length ≤ 256) (x : Nat) :
    x ∈ rest ++ [node.length] ↔ InPool (node ++ [Huffman.mergeNode node a b]) f.length (node.length + 1) x := by
  obtain ⟨ha, hb, hrest⟩ := hm.lt_parts hl
  obtain ⟨-, har, hbr, -⟩ := hm.nodup_parts hl
  have hpool : x ∈ pool ↔ InPool (node ++ [Huffman.mergeNode node a b]) f.length node.length x :=
    (hm.mem_pool x).trans (inPool_append _ le_rfl).symm
  rw [List.mem_append, List.mem_singleton]
  constructor
  · rintro (hx | rfl)
    · obtain ⟨hlt, hfree⟩ := hpool.1 ((hl.mem_iff x).2 (.inr (.inr hx)))
      refine ⟨hlt.trans (Nat.lt_succ_self _), fun m hk hm' => ?_⟩
      rcases Nat.lt_succ_iff_lt_or_eq.1 hm' with hlt' | rfl
      · exact hfree m hk hlt'
      · rw [hm.isChild_new hl hf]
        rintro (rfl | rfl)
        · exact har hx
        · exact hbr hx
    · refine ⟨Nat.lt_succ_self _, fun m hk hm' hchild => ?_⟩
      rcases Nat.lt_succ_iff_lt_or_eq.1 hm' with hlt' | rfl
      · have hlen := hm.length_lt hl hf
        have := (hm.merged m hk hlt').child_lt (by omega) ((isChild_append _ hlt').1 hchild)
        omega
      · rcases (hm.isChild_new hl hf _).1 hchild with h | h <;> omega
  · rintro ⟨hlt, hfree⟩
    rcases Nat.lt_succ_iff_lt_or_eq.1 hlt with hlt' | rfl
    · left
      have hx : x ∈ pool := hpool.2 ⟨hlt', fun m hk hm' => hfree m hk (hm'.trans (Nat.lt_succ_self _))⟩
      have hnew := hfree node.length hm.leaves_le (Nat.lt_succ_self _)
      rw [hm.isChild_new hl hf, not_or] at hnew
      simpa [hnew] using (hl.mem_iff x).1 hx
    · exact .inr rfl

theorem Merging.mergesTwoLeast_new :
    MergesTwoLeast (node ++ [Huffman.mergeNode node a b]) f.length node.length := by
  obtain ⟨ha, hb, hrest⟩ := hm.lt_parts hl
  have hpool : ∀ x, InPool (node ++ [Huffman.mergeNode node a b]) f.length node.length x ↔ x = a ∨ x = b ∨ x ∈ rest :=
    fun x => (inPool_append _ le_rfl).trans ((hm.mem_pool x).symm.trans (hl.mem_iff x))
  obtain ⟨hab, -, hbr, -⟩ := hm.nodup_parts hl
  refine ⟨a, b, _, List.getElem?_concat_length .., ?_, (hpool a).2 (.inl rfl), (hpool b).2 (.inr (.inl rfl)), ?_,
    fun x hx hxa hxb => ?_⟩
  · rw [freqNumber_append _ ha, freqNumber_append _ hb, hm.toNat_sum hl]
  · exact (keyBefore_append _ ha hb).2 (hl.first b ((hl.mem_iff b).2 (.inr (.inl rfl))) hab.symm)
  · have hx' : x ∈ rest := by simpa [hxa, hxb] using (hpool x).1 hx
    exact (keyBefore_append _ hb (hrest x hx')).2 (hl.second x hx' hxb)

theorem Merging.step (hf : f.length ≤ 256) :
    Merging f (node ++ [Huffman.mergeNode node a b]) (rest ++ [node.length]) where
  leaf e he := by
    rw [List.getElem?_append_left (he.trans_le hm.leaves_le), hm.leaf e he]
  length := by
    have hlen := hl.perm.length_eq
    have hsum := hm.length
    simp only [List.length_cons, List.length_append, List.length_nil] at hlen ⊢
    omega
  leaves_le := hm.leaves_le.trans (by simp)
  nodup := by
    obtain ⟨-, -, -, hrest⟩ := hm.nodup_parts hl
    obtain ⟨-, -, hlt⟩ := hm.lt_parts hl
    exact List.nodup_append.2 ⟨hrest, List.nodup_singleton _, fun x hx y hy => by
      obtain rfl := List.mem_singleton.1 hy
      exact (hlt x hx).ne⟩
  mem_pool x := by
    rw [List.length_append, List.length_singleton]
    exact hm.mem_pool_step hl hf x
  merged n hk hn := by
    rw [List.length_append, List.length_singleton] at hn
    rcases Nat.lt_succ_iff_lt_or_eq.1 hn with hlt | rfl
    · exact (hm.merged n hk hlt).append _ hlt
    · exact hm.mergesTwoLeast_new hl
  total := hm.total_step hl

end

theorem merging_buildTree {f : FreqTable} (hf : f.length ≤ 256) (h2 : 2 ≤ f.length) :
    ∃ r, Merging f (Huffman.buildTree f).node [r] ∧ (Huffman.buildTree f).root = BitVec.ofNat 9 r :=
  buildTree_induct h2 (merging_leaves hf) fun _ _ _ _ _ hm hl => hm.step hl hf

/-- The one node left in the pool is the arena's last. -/
theorem Merging.root_eq {f : FreqTable} {node : List Node} {r : Nat} (hm : Merging f node [r]) (hf : f.length ≤ 256)
    (hne : f ≠ []) : r = 2 * f.length - 2 := by
  have hlen := hm.length
  have hpos := List.length_pos_of_ne_nil hne
  rw [List.length_singleton] at hlen
  have hlast : node.length - 1 ∈ [r] := (hm.mem_pool _).2 ⟨by omega, fun m hk hm' hchild => by
    have := (hm.merged m hk hm').child_lt (by omega) hchild
    omega⟩
  have := List.mem_singleton.1 hlast
  omega

/-! ### The statement -/

/-- Settles O40: the arena's rules hold of the leaves and every pass of the merging loop keeps them. -/
theorem treeMergesTheTwoLeastNodes : Obligations.TreeMergesTheTwoLeastNodes := by
  intro f hf h2
  have hlen : f.length ≤ 256 := length_le_of_ascending hf.2.1
  obtain ⟨r, hm, hroot⟩ := merging_buildTree hlen h2
  have hsum := hm.length
  rw [List.length_singleton] at hsum
  refine ⟨by omega, ?_, hm.leaf, fun n hk hn => hm.merged n hk (by omega)⟩
  rw [hroot, hm.root_eq hlen hf.1, BitVec.toNat_ofNat]
  omega

end Sys2Proof.Proofs
end

section
/-!
PROOFS. The family 40_huffman, the codes: the shape of the tree below a node of the arena, the paths of a shape, and the
codes as the paths of the shape that the tree builder's arena holds.
-/

namespace Sys2Proof.Proofs

open Sys2Proof.Machine Sys2Proof.Claims

/-! ### Shapes -/

/-- The tree below a child entry of the arena, without its freqs and indices. -/
inductive Shape where
  | absent
  | leaf (sym : Byte)
  | fork (left right : Shape)

/-- The side a bit leads to (40_huffman.md R126): 0 left, 1 right. -/
def Shape.side (left right : Shape) (bit : Bool) : Shape := if bit then right else left

/-- The leaves in `walk`'s order, each with its path (40_huffman.md R127). -/
def Shape.paths : Shape → CodeTable
  | .absent => []
  | .leaf b => [(b, [])]
  | .fork left right =>
    (left.paths.map fun p => (p.1, false :: p.2)) ++ right.paths.map fun p => (p.1, true :: p.2)

/-- The symbols of the leaves. -/
def Shape.symbols (t : Shape) : List Byte := t.paths.map Prod.fst

/-- The length of a longest path. -/
def Shape.height : Shape → Nat
  | .absent => 0
  | .leaf _ => 0
  | .fork left right => max left.height right.height + 1

/-- No child is absent. -/
def Shape.Full : Shape → Prop
  | .absent => False
  | .leaf _ => True
  | .fork left right => left.Full ∧ right.Full

@[simp] theorem Shape.side_false (left right : Shape) : Shape.side left right false = left := rfl

@[simp] theorem Shape.side_true (left right : Shape) : Shape.side left right true = right := rfl

@[simp] theorem Shape.symbols_leaf (b : Byte) : (Shape.leaf b).symbols = [b] := rfl

@[simp] theorem Shape.symbols_fork (left right : Shape) :
    (Shape.fork left right).symbols = left.symbols ++ right.symbols := by
  simp [Shape.symbols, Shape.paths, Function.comp_def]

theorem Shape.mem_paths_leaf {b c : Byte} {p : List Bool} : (b, p) ∈ (Shape.leaf c).paths ↔ b = c ∧ p = [] := by
  simp [Shape.paths]

/-- A path of a fork begins with the bit of the side it runs through. -/
theorem Shape.mem_paths_fork {left right : Shape} {b : Byte} {p : List Bool} :
    (b, p) ∈ (Shape.fork left right).paths ↔ ∃ bit q, p = bit :: q ∧ (b, q) ∈ (Shape.side left right bit).paths := by
  simp [Shape.paths, eq_comm, and_comm]

theorem Shape.cons_mem_paths_fork {left right : Shape} {b : Byte} {bit : Bool} {p : List Bool} :
    (b, bit :: p) ∈ (Shape.fork left right).paths ↔ (b, p) ∈ (Shape.side left right bit).paths := by
  simp [Shape.mem_paths_fork]

theorem Shape.height_side (left right : Shape) (bit : Bool) :
    (Shape.side left right bit).height + 1 ≤ (Shape.fork left right).height := by
  cases bit <;> simp [Shape.height]

theorem Shape.Full.side {left right : Shape} (h : (Shape.fork left right).Full) (bit : Bool) :
    (Shape.side left right bit).Full := by
  cases bit
  · exact h.1
  · exact h.2

theorem Shape.length_le_height {t : Shape} {b : Byte} {p : List Bool} (h : (b, p) ∈ t.paths) : p.length ≤ t.height := by
  induction t generalizing p with
  | absent => cases h
  | leaf c =>
    obtain ⟨-, rfl⟩ := Shape.mem_paths_leaf.1 h
    exact Nat.zero_le _
  | fork left right ihl ihr =>
    obtain ⟨bit, q, rfl, hq⟩ := Shape.mem_paths_fork.1 h
    refine (Nat.succ_le_succ ?_).trans (Shape.height_side left right bit)
    cases bit
    · exact ihl hq
    · exact ihr hq

/-- No path begins with another leaf's path: a leaf has no children (40_huffman.md R128 (c)). -/
theorem Shape.eq_of_prefix {t : Shape} {b b' : Byte} {p p' : List Bool} (h : (b, p) ∈ t.paths) (h' : (b', p') ∈ t.paths)
    (hp : p <+: p') : b = b' := by
  induction t generalizing p p' with
  | absent => cases h
  | leaf c =>
    obtain ⟨rfl, -⟩ := Shape.mem_paths_leaf.1 h
    exact (Shape.mem_paths_leaf.1 h').1.symm
  | fork left right ihl ihr =>
    obtain ⟨bit, q, rfl, hq⟩ := Shape.mem_paths_fork.1 h
    obtain ⟨bit', q', rfl, hq'⟩ := Shape.mem_paths_fork.1 h'
    obtain ⟨rfl, hqq⟩ := List.cons_prefix_cons.1 hp
    cases bit
    · exact ihl hq hq' hqq
    · exact ihr hq hq' hqq

/-- A tree without absent children has a code at the head of every long enough bit string (40_huffman.md R128 (e)). -/
theorem Shape.Full.exists_prefix {t : Shape} (h : t.Full) {bits : List Bool} (hbits : t.height ≤ bits.length) :
    ∃ b p, (b, p) ∈ t.paths ∧ p <+: bits := by
  induction t generalizing bits with
  | absent => exact h.elim
  | leaf b => exact ⟨b, [], Shape.mem_paths_leaf.2 ⟨rfl, rfl⟩, List.nil_prefix⟩
  | fork left right ihl ihr =>
    obtain ⟨bit, bits, rfl⟩ := List.exists_cons_of_length_pos (Nat.zero_lt_of_lt hbits)
    have hside : (Shape.side left right bit).height ≤ bits.length :=
      Nat.le_of_succ_le_succ ((Shape.height_side left right bit).trans hbits)
    obtain ⟨b, p, hmem, hp⟩ : ∃ b p, (b, p) ∈ (Shape.side left right bit).paths ∧ p <+: bits := by
      cases bit
      · exact ihl h.1 hside
      · exact ihr h.2 hside
    exact ⟨b, bit :: p, Shape.cons_mem_paths_fork.2 hmem, List.cons_prefix_cons.2 ⟨rfl, hp⟩⟩

/-- A tree of k leaves without absent children has paths of at most k - 1 bits (40_huffman.md R128 (b)). -/
theorem Shape.Full.height_lt {t : Shape} (h : t.Full) : t.height < t.symbols.length := by
  induction t with
  | absent => exact h.elim
  | leaf b => exact Nat.one_pos
  | fork left right ihl ihr =>
    have hl := ihl h.1
    have hr := ihr h.2
    rw [Shape.height, Shape.symbols_fork, List.length_append]
    omega

/-! ### The shape of an arena -/

/-- The arena has the tree `t` below a child entry. -/
inductive Holds (node : List Node) : Option (BitVec 9) → Shape → Prop where
  | absent : Holds node none .absent
  | leaf {x : BitVec 9} {b : Byte} {n : BitVec 40} : node[x.toNat]? = some (.leaf b n) → Holds node (some x) (.leaf b)
  | fork {x : BitVec 9} {n : BitVec 40} {l r : Option (BitVec 9)} {left right : Shape} :
      node[x.toNat]? = some (.internal n l r) → Holds node l left → Holds node r right →
        Holds node (some x) (.fork left right)

theorem Holds.unique {node : List Node} {c : Option (BitVec 9)} {t t' : Shape} (h : Holds node c t) (h' : Holds node c t') :
    t = t' := by
  induction h generalizing t' with
  | absent => cases h'; rfl
  | leaf hx =>
    cases h' with
    | leaf hx' =>
      obtain ⟨rfl, -⟩ := Node.leaf.inj (Option.some.inj (hx.symm.trans hx'))
      rfl
    | fork hx' => cases hx.symm.trans hx'
  | fork hx _ _ ihl ihr =>
    cases h' with
    | leaf hx' => cases hx.symm.trans hx'
    | fork hx' hl hr =>
      obtain ⟨-, rfl, rfl⟩ := Node.internal.inj (Option.some.inj (hx.symm.trans hx'))
      rw [ihl hl, ihr hr]

theorem Holds.append {node : List Node} {c : Option (BitVec 9)} {t : Shape} (h : Holds node c t) (l : List Node) :
    Holds (node ++ l) c t := by
  have hkeep : ∀ {x : Nat} {n : Node}, node[x]? = some n → (node ++ l)[x]? = some n := fun hx => by
    rw [List.getElem?_append_left (List.getElem?_eq_some_iff.1 hx).1, hx]
  induction h with
  | absent => exact .absent
  | leaf hx => exact .leaf (hkeep hx)
  | fork hx _ _ ihl ihr => exact .fork (hkeep hx) ihl ihr

theorem walkCodes_internal {node : List Node} {fuel x : Nat} {path : List Bool} {n : BitVec 40} {l r : Option (BitVec 9)}
    (hx : node[x]? = some (.internal n l r)) :
    Huffman.walkCodes node (fuel + 1) x path =
      (l.elim [] fun y => Huffman.walkCodes node fuel y.toNat (path ++ [false])) ++
        r.elim [] fun y => Huffman.walkCodes node fuel y.toNat (path ++ [true]) := by
  cases l <;> cases r <;> simp [Huffman.walkCodes, hx]

/-- The code generator's walk gives the paths of the shape it walks (40_huffman.md R127). -/
theorem Holds.walkCodes_eq {node : List Node} {c : Option (BitVec 9)} {t : Shape} (h : Holds node c t) {fuel : Nat}
    (hfuel : t.height < fuel) (path : List Bool) :
    (c.elim [] fun x => Huffman.walkCodes node fuel x.toNat path) = t.paths.map fun p => (p.1, path ++ p.2) := by
  induction h generalizing fuel path with
  | absent => rfl
  | leaf hx =>
    obtain ⟨fuel, rfl⟩ := Nat.exists_eq_succ_of_ne_zero hfuel.ne_bot
    simp [Huffman.walkCodes, hx, Shape.paths]
  | fork hx _ _ ihl ihr =>
    obtain ⟨fuel, rfl⟩ := Nat.exists_eq_succ_of_ne_zero hfuel.ne_bot
    rw [Shape.height, Nat.succ_lt_succ_iff, max_lt_iff] at hfuel
    rw [Option.elim_some, walkCodes_internal hx, ihl hfuel.1, ihr hfuel.2]
    simp [Shape.paths, Function.comp_def]

/-! ### The shape of a table's tree -/

/-- `t` is the shape of the tree the block builds from the table `f`. -/
structure TreeShape (f : FreqTable) (t : Shape) : Prop where
  holds : Holds (Huffman.buildTree f).node (some (Huffman.buildTree f).root) t
  height_lt : t.height < (Huffman.buildTree f).node.length
  symbols : t.symbols.Perm (f.map Prod.fst)
  full : 2 ≤ f.length → t.Full

/-- The pool's trees are without absent children and have the table's symbols at their leaves. -/
def Forest (f : FreqTable) (node : List Node) (pool : List Nat) : Prop :=
  ∃ shape : Nat → Shape, (∀ x ∈ pool, Holds node (some (BitVec.ofNat 9 x)) (shape x) ∧ (shape x).Full) ∧
    (pool.flatMap fun x => (shape x).symbols).Perm (f.map Prod.fst)

theorem forest_leaves {f : FreqTable} (hf : f.length ≤ 256) : Forest f (Huffman.leaves f) (List.range f.length) := by
  refine ⟨fun x => .leaf ((f.map Prod.fst).getD x 0), fun x hx => ⟨?_, trivial⟩, ?_⟩
  · have hx' := List.mem_range.1 hx
    have hmod : (BitVec.ofNat 9 x).toNat = x := Nat.mod_eq_of_lt (by omega)
    have hsym : (f.map Prod.fst).getD x 0 = f[x].1 := by simp [hx']
    simp only [hsym]
    exact .leaf (by rw [hmod, leaves_getElem? f hx'])
  · simp only [Shape.symbols_leaf, ← List.map_eq_flatMap]
    refine .of_eq (List.ext_getElem (by simp) fun x hx hx' => ?_)
    rw [List.length_map] at hx'
    simp [hx']

theorem Forest.step {f : FreqTable} {node : List Node} {pool rest : List Nat} {a b : Nat} (h : Forest f node pool)
    (hm : Merging f node pool) (hl : TwoLeast node pool a b rest) (hf : f.length ≤ 256) :
    Forest f (node ++ [Huffman.mergeNode node a b]) (rest ++ [node.length]) := by
  obtain ⟨shape, hshape, hsymbols⟩ := h
  obtain ⟨-, -, hlt⟩ := hm.lt_parts hl
  have hlen := hm.length_lt hl hf
  obtain ⟨ha, hafull⟩ := hshape a ((hl.mem_iff a).2 (.inl rfl))
  obtain ⟨hb, hbfull⟩ := hshape b ((hl.mem_iff b).2 (.inr (.inl rfl)))
  have hold : ∀ x ∈ rest, Function.update shape node.length (.fork (shape a) (shape b)) x = shape x := fun x hx =>
    Function.update_of_ne (hlt x hx).ne ..
  refine ⟨Function.update shape node.length (.fork (shape a) (shape b)), fun x hx => ?_, ?_⟩
  · rcases List.mem_append.1 hx with hx | hx
    · obtain ⟨hx', hfull⟩ := hshape x ((hl.mem_iff x).2 (.inr (.inr hx)))
      rw [hold x hx]
      exact ⟨hx'.append _, hfull⟩
    · obtain rfl := List.mem_singleton.1 hx
      have hmod : (BitVec.ofNat 9 node.length).toNat = node.length := Nat.mod_eq_of_lt (by omega)
      rw [Function.update_self]
      exact ⟨.fork (by rw [hmod]; exact List.getElem?_concat_length ..) (ha.append _) (hb.append _), hafull, hbfull⟩
  · have hrest : (rest.flatMap fun x => (Function.update shape node.length (.fork (shape a) (shape b)) x).symbols) =
        rest.flatMap fun x => (shape x).symbols :=
      List.flatMap_congr fun x hx => by rw [hold x hx]
    rw [List.flatMap_append, hrest, List.flatMap_singleton, Function.update_self, Shape.symbols_fork]
    refine List.perm_append_comm.trans (.trans ?_ hsymbols)
    rw [List.append_assoc]
    exact (hl.perm.flatMap_right fun x => (shape x).symbols).symm

theorem forest_buildTree {f : FreqTable} (hf : f.length ≤ 256) (h2 : 2 ≤ f.length) :
    ∃ r, (Merging f (Huffman.buildTree f).node [r] ∧ Forest f (Huffman.buildTree f).node [r]) ∧
      (Huffman.buildTree f).root = BitVec.ofNat 9 r :=
  buildTree_induct h2 (P := fun node pool => Merging f node pool ∧ Forest f node pool)
    ⟨merging_leaves hf, forest_leaves hf⟩ fun _ _ _ _ _ h hl => ⟨h.1.step hl hf, h.2.step h.1 hl hf⟩

/-- The tree of one symbol (40_huffman.md R123). -/
theorem treeShape_singleton (e : Byte × Word) : TreeShape [e] (.fork (.leaf e.1) .absent) where
  holds := .fork (rfl : [Node.leaf e.1 _, .internal _ (some 0) none][1]? = _) (.leaf rfl) .absent
  height_lt := Nat.one_lt_two
  symbols := by simp [Shape.symbols, Shape.paths]
  full h := by simp at h

theorem treeShape_merged {f : FreqTable} (hf : f.length ≤ 256) (h2 : 2 ≤ f.length) : ∃ l r, TreeShape f (.fork l r) := by
  obtain ⟨r, ⟨hm, shape, hshape, hsymbols⟩, hroot⟩ := forest_buildTree hf h2
  obtain ⟨hholds, hfull⟩ := hshape r (List.mem_singleton_self r)
  rw [List.flatMap_singleton] at hsymbols
  have hlen : (shape r).symbols.length = f.length := by simpa using hsymbols.length_eq
  have hheight := hfull.height_lt
  have hshape : TreeShape f (shape r) :=
    ⟨hroot ▸ hholds, hheight.trans_le (hlen.le.trans hm.leaves_le), hsymbols, fun _ => hfull⟩
  cases ht : shape r with
  | absent =>
    rw [ht] at hfull
    exact hfull.elim
  | leaf b =>
    rw [ht, Shape.symbols_leaf, List.length_singleton] at hlen
    omega
  | fork left right => exact ⟨left, right, ht ▸ hshape⟩

theorem exists_treeShape {f : FreqTable} (hf : TableOk f) : ∃ l r, TreeShape f (.fork l r) := by
  obtain ⟨hne, hasc, -⟩ := hf
  match f, hne with
  | [e], _ => exact ⟨_, _, treeShape_singleton e⟩
  | e :: e' :: f, _ => exact treeShape_merged (length_le_of_ascending hasc) (by simp)

/-! ### The codes are the paths -/

section
variable {f : FreqTable} {t : Shape} (ht : TreeShape f t)
include ht

theorem TreeShape.codesOf_eq : Huffman.codesOf (Huffman.buildTree f) = t.paths := by
  have h := ht.holds.walkCodes_eq ht.height_lt []
  simpa [Huffman.codesOf] using h

theorem TreeShape.mem_symbols {b : Byte} : b ∈ t.symbols ↔ b ∈ f.map Prod.fst := ht.symbols.mem_iff

/-- The code of a symbol of a legal table is its path. -/
theorem TreeShape.mem_paths_iff (hf : TableOk f) {b : Byte} {p : List Bool} :
    (b, p) ∈ t.paths ↔ b ∈ f.map Prod.fst ∧ codeOf f b = p := by
  have hnodup : (t.paths.map Prod.fst).Nodup := ht.symbols.nodup_iff.2 (nodup_of_ascending hf.2.1)
  have hcode : ∀ {q}, (b, q) ∈ t.paths → codeOf f b = q := fun hq => by
    rw [codeOf, ht.codesOf_eq, Huffman.codeAt, lookup_of_mem hnodup hq, Option.getD_some]
  constructor
  · exact fun h => ⟨ht.mem_symbols.1 (List.mem_map_of_mem h), hcode h⟩
  · rintro ⟨hb, rfl⟩
    obtain ⟨⟨c, q⟩, hq, rfl⟩ := List.mem_map.1 (ht.mem_symbols.2 hb)
    exact (hcode hq).symm ▸ hq

theorem TreeShape.codeOf_mem (hf : TableOk f) {e : Byte × Word} (he : e ∈ f) : (e.1, codeOf f e.1) ∈ t.paths :=
  (ht.mem_paths_iff hf).2 ⟨List.mem_map_of_mem he, rfl⟩

theorem TreeShape.codeOf_absent {b : Byte} (hb : b ∉ f.map Prod.fst) : codeOf f b = [] := by
  have hnone : t.paths.lookup b = none := List.lookup_eq_none_iff.2 fun p hp => bne_iff_ne.2 fun h =>
    hb (ht.mem_symbols.1 (List.mem_map.2 ⟨p, hp, h.symm⟩))
  rw [codeOf, ht.codesOf_eq, Huffman.codeAt, hnone, Option.getD_none]

/-- The tree of k symbols, two or more, has paths of at most k - 1 bits. -/
theorem TreeShape.height_lt_length (h2 : 2 ≤ f.length) : t.height < f.length := by
  have hlen : t.symbols.length = f.length := by simpa using ht.symbols.length_eq
  exact hlen ▸ (ht.full h2).height_lt

end

/-- No code of a legal table begins with another symbol's code (40_huffman.md R128 (c)). -/
theorem codeOf_not_prefix {f : FreqTable} (hf : TableOk f) {e e' : Byte × Word} (he : e ∈ f) (he' : e' ∈ f)
    (hne : e.1 ≠ e'.1) : ¬ codeOf f e.1 <+: codeOf f e'.1 := by
  obtain ⟨l, r, ht⟩ := exists_treeShape hf
  exact fun hp => hne (Shape.eq_of_prefix (ht.codeOf_mem hf he) (ht.codeOf_mem hf he') hp)

theorem codeOf_length {f : FreqTable} (hf : TableOk f) (h2 : 2 ≤ f.length) {e : Byte × Word} (he : e ∈ f) :
    1 ≤ (codeOf f e.1).length ∧ (codeOf f e.1).length ≤ f.length - 1 := by
  obtain ⟨l, r, ht⟩ := exists_treeShape hf
  have hmem := ht.codeOf_mem hf he
  have hheight := ht.height_lt_length h2
  have hle := Shape.length_le_height hmem
  obtain ⟨bit, q, hq, -⟩ := Shape.mem_paths_fork.1 hmem
  rw [hq, List.length_cons] at hle ⊢
  omega

theorem exists_codeOf_prefix {f : FreqTable} (hf : TableOk f) (h2 : 2 ≤ f.length) {bits : List Bool}
    (hbits : 255 ≤ bits.length) : ∃ e ∈ f, codeOf f e.1 <+: bits := by
  obtain ⟨l, r, ht⟩ := exists_treeShape hf
  have hheight := ht.height_lt_length h2
  have hlen := length_le_of_ascending hf.2.1
  obtain ⟨b, p, hmem, hp⟩ := (ht.full h2).exists_prefix (by omega : _ ≤ bits.length)
  obtain ⟨hb, rfl⟩ := (ht.mem_paths_iff hf).1 hmem
  obtain ⟨e, he, rfl⟩ := List.mem_map.1 hb
  exact ⟨e, he, hp⟩

theorem codesOf_singleton (e : Byte × Word) : Huffman.codesOf (Huffman.buildTree [e]) = [(e.1, [false])] :=
  (treeShape_singleton e).codesOf_eq

theorem codeOf_singleton (e : Byte × Word) : codeOf [e] e.1 = [false] := by
  rw [codeOf, codesOf_singleton, Huffman.codeAt, List.lookup_cons_self, Option.getD_some]

/-! ### The statements -/

/-- Settles O41: by the tree builder's case of one symbol, and the paths of its shape. -/
theorem singleSymbolTree : Obligations.SingleSymbolTree :=
  fun b c => ⟨rfl, codesOf_singleton (b, c)⟩

/-- Settles O42: the codes are the paths of the shape of the table's tree. -/
theorem codesArePrefixFreeAndComplete : Obligations.CodesArePrefixFreeAndComplete := by
  refine ⟨fun f hf => ⟨fun h1 e he => ?_, fun h2 e he => ?_, fun e he e' he' => codeOf_not_prefix hf he he',
    fun b hb => ?_, fun h2 bits => exists_codeOf_prefix hf h2⟩, fun x b hx hb hmem => ?_⟩
  · obtain ⟨e', rfl⟩ := List.length_eq_one_iff.1 h1
    obtain rfl := List.mem_singleton.1 he
    exact codeOf_singleton e
  · obtain ⟨hpos, hle⟩ := codeOf_length hf h2 he
    have hlen := length_le_of_ascending hf.2.1
    exact ⟨hpos, hle, by omega⟩
  · obtain ⟨l, r, ht⟩ := exists_treeShape hf
    exact ht.codeOf_absent fun hmem => by
      obtain ⟨e, he, rfl⟩ := List.mem_map.1 hmem
      exact hb e he rfl
  · obtain ⟨e, he, rfl⟩ := List.mem_map.1 (mem_keys_freqOf hx hmem)
    exact hb e he rfl

end Sys2Proof.Proofs
end

section
/-!
PROOFS. The family 40_huffman, HUFD's checks: the fields of the blob in SRC, the header, the table entries and the padding
count.
-/

namespace Sys2Proof.Proofs

open Sys2Proof.Machine Sys2Proof.Claims

/-! ### The bytes and fields of the input -/

theorem byteAt_input {s : State} {a : Nat} (h : a < s.hidden.lenL.toNat) : byteAt s.input a = s.srcByte a := by
  simp [byteAt, State.input, h]

theorem toNat_append_byte {n : Nat} (v : BitVec n) (b : Byte) : (v ++ b).toNat = v.toNat * 2 ^ 8 + b.toNat := by
  rw [BitVec.toNat_append, ← Nat.shiftLeft_add_eq_or_of_lt b.isLt, Nat.shiftLeft_eq]

theorem toNat_be32 (b0 b1 b2 b3 : Byte) :
    (be32 b0 b1 b2 b3).toNat = b0.toNat * 2 ^ 24 + b1.toNat * 2 ^ 16 + b2.toNat * 2 ^ 8 + b3.toNat := by
  rw [be32, toNat_append_byte, toNat_append_byte, toNat_append_byte]
  omega

theorem toNat_be32At_input {s : State} {a : Nat} (h : a + 3 < s.hidden.lenL.toNat) :
    (be32At s.input a).toNat = srcField s a := by
  rw [be32At, toNat_be32, byteAt_input (by omega), byteAt_input (by omega), byteAt_input (by omega), byteAt_input h]
  rfl

theorem tableLen_input {s : State} (h : 4 ≤ s.hidden.lenL.toNat) : Huffman.tableLen s.input = srcField s 0 :=
  toNat_be32At_input (by omega)

/-! ### The header (40_huffman.md R133) -/

section
variable (h : Hidden) {x : List Byte} (cap : Nat)

theorem decompress_of_short (hne : x ≠ []) (hx : x.length < 4) :
    (Huffman.decompress h x cap).2 = .error .malformedInput .hufHdrShort 0 := by
  simp [Huffman.decompress, hne, hx]

variable (h4 : 4 ≤ x.length)
include h4

theorem ne_nil_of_header : x ≠ [] := List.ne_nil_of_length_pos (by omega)

theorem decompress_of_overrun (ht : x.length - 4 < Huffman.tableLen x) :
    (Huffman.decompress h x cap).2 = .error .malformedInput .hufTableOverrun 0 := by
  simp [Huffman.decompress, ne_nil_of_header h4, h4.not_gt, ht]

theorem decompress_of_no_padding (ht : Huffman.tableLen x = x.length - 4) :
    (Huffman.decompress h x cap).2 = .error .malformedInput .hufPadMissing x.length := by
  simp [Huffman.decompress, ne_nil_of_header h4, h4.not_gt, ht]

variable (ht : Huffman.tableLen x < x.length - 4)
include ht

theorem decompress_of_format (h5 : Huffman.tableLen x % 5 ≠ 0) :
    (Huffman.decompress h x cap).2 = .error .malformedInput .hufTableFormat 0 := by
  simp [Huffman.decompress, ne_nil_of_header h4, h4.not_gt, ht.not_gt, ht.ne, h5]

variable (h5 : Huffman.tableLen x % 5 = 0) {f : FreqTable}
include h5

theorem decompress_of_table_error {c : Cause} {q : Nat}
    (hparse : Huffman.parseTable x (Huffman.tableLen x / 5) 0 [] = (f, some (c, q))) :
    (Huffman.decompress h x cap).2 = .error .malformedInput c q := by
  simp [Huffman.decompress, ne_nil_of_header h4, h4.not_gt, ht.not_gt, ht.ne, h5, hparse]

theorem decompress_of_table (hparse : Huffman.parseTable x (Huffman.tableLen x / 5) 0 [] = (f, none)) :
    Huffman.decompress h x cap = Huffman.decodeBody { h with freq := f } x cap := by
  simp [Huffman.decompress, ne_nil_of_header h4, h4.not_gt, ht.not_gt, ht.ne, h5, hparse]

end

/-! ### The table entries (40_huffman.md R133) -/

/-- Table entry `e` of a blob (30_encoding.md R102). -/
def entryAt (x : List Byte) (e : Nat) : Byte × Word := (byteAt x (4 + 5 * e), be32At x (5 + 5 * e))

/-- Entry `e` is above its predecessor, if it has one. -/
def EntryAbove (x : List Byte) (e : Nat) : Prop := 0 < e → (entryAt x (e - 1)).1 < (entryAt x e).1

/-- Entry `e` passes both of its checks. -/
def EntryPasses (x : List Byte) (e : Nat) : Prop := EntryAbove x e ∧ (entryAt x e).2 ≠ 0

section
variable {x : List Byte} (left : Nat) {e : Nat} (f : FreqTable)

theorem parseTable_of_order (hpos : 0 < e) (hle : (entryAt x e).1 ≤ (entryAt x (e - 1)).1) :
    Huffman.parseTable x (left + 1) e f = (f, some (.hufTableOrder, 4 + 5 * e)) := by
  have hpred : 4 + 5 * e - 5 = 4 + 5 * (e - 1) := by omega
  rw [Huffman.parseTable, hpred, if_pos ⟨hpos, hle⟩]

theorem parseTable_of_above (habove : EntryAbove x e) :
    Huffman.parseTable x (left + 1) e f =
      if (entryAt x e).2 = 0 then (f, some (.hufTableZero, 4 + 5 * e))
      else Huffman.parseTable x left (e + 1) (f ++ [entryAt x e]) := by
  have hcount : 4 + 5 * e + 1 = 5 + 5 * e := by omega
  have horder : ¬ (0 < e ∧ byteAt x (4 + 5 * e) ≤ byteAt x (4 + 5 * e - 5)) := by
    rintro ⟨hpos, hle⟩
    have hpred : 4 + 5 * e - 5 = 4 + 5 * (e - 1) := by omega
    rw [hpred] at hle
    exact BitVec.not_le.2 (habove hpos) hle
  rw [Huffman.parseTable, if_neg horder, hcount]
  rfl

/-- Entries that pass are parsed in order. -/
theorem parseTable_of_passing {n : Nat} (h : ∀ i, i < n → EntryPasses x i) :
    Huffman.parseTable x (n + left) 0 [] = Huffman.parseTable x left n ((List.range n).map (entryAt x)) := by
  induction n generalizing left with
  | zero => rw [Nat.zero_add, List.range_zero, List.map_nil]
  | succ n ih =>
    obtain ⟨habove, hcount⟩ := h n (Nat.lt_succ_self n)
    rw [Nat.add_right_comm, Nat.add_assoc, ih (left + 1) fun i hi => h i (hi.trans (Nat.lt_succ_self n)),
      parseTable_of_above left _ habove, if_neg hcount, List.range_succ, List.map_append, List.map_singleton]

end

/-- Every entry passes: the parsed table is the blob's. -/
theorem parseTable_eq {x : List Byte} {n : Nat} (h : ∀ i, i < n → EntryPasses x i) :
    Huffman.parseTable x n 0 [] = ((List.range n).map (entryAt x), none) :=
  parseTable_of_passing 0 h

/-! ### The end of HUFD's checks (40_huffman.md R133, R134) -/

section
variable (h : Hidden) {x : List Byte} (cap : Nat)

theorem decodeBody_of_padRange (hp : 7 < (byteAt x (4 + Huffman.tableLen x)).toNat ∨
      (x.length - 5 - Huffman.tableLen x = 0 ∧ byteAt x (4 + Huffman.tableLen x) ≠ 0)) :
    (Huffman.decodeBody h x cap).2 = .error .malformedInput .hufPadRange (4 + Huffman.tableLen x) := by
  simp only [Huffman.decodeBody]
  rw [if_pos hp]

variable (hp : (byteAt x (4 + Huffman.tableLen x)).toNat ≤ 7)
  (hp' : x.length - 5 - Huffman.tableLen x = 0 → byteAt x (4 + Huffman.tableLen x) = 0)
include hp hp'

theorem decodeBody_of_empty_table (ht : Huffman.tableLen x = 0) :
    (Huffman.decodeBody h x cap).2 =
      if 0 < x.length - 5 - Huffman.tableLen x then .error .malformedInput .hufEmptyTableBits 5 else .success [] := by
  simp only [Huffman.decodeBody]
  rw [if_neg (not_or.2 ⟨not_lt.2 hp, fun h => h.2 (hp' h.1)⟩), if_pos (by rw [ht])]
  split_ifs
  · rw [ht]
  · rfl

theorem decodeBody_of_table (ht : 5 ≤ Huffman.tableLen x) :
    Huffman.decodeBody h x cap =
      Huffman.walkBits (Huffman.setTables h h.freq) cap (5 + Huffman.tableLen x) x.length (Huffman.packedBits x) 0
        (Huffman.buildTree h.freq).root [] := by
  simp only [Huffman.decodeBody]
  rw [if_neg (not_or.2 ⟨not_lt.2 hp, fun h => h.2 (hp' h.1)⟩), if_neg (by omega)]
  rfl

end

/-! ### The checks on the blob in SRC -/

section
variable {s : State} {e : Nat} (ht : srcField s 0 < s.hidden.lenL.toNat - 4) (he : e < srcField s 0 / 5)
include ht he

theorem toNat_entryAt_input : (entryAt s.input e).1.toNat = entrySym s e ∧ (entryAt s.input e).2.toNat = entryCount s e :=
  ⟨congrArg BitVec.toNat (byteAt_input (by omega)), toNat_be32At_input (by omega)⟩

theorem toNat_entryAt_input_pred : (entryAt s.input (e - 1)).1.toNat = entrySym s (e - 1) :=
  (toNat_entryAt_input ht ((Nat.sub_le e 1).trans_lt he)).1

theorem entryAbove_input_iff : EntryAbove s.input e ↔ (0 < e → entrySym s (e - 1) < entrySym s e) := by
  rw [EntryAbove, BitVec.lt_def, toNat_entryAt_input_pred ht he, (toNat_entryAt_input ht he).1]

theorem entryPasses_input_iff : EntryPasses s.input e ↔ EntryOk s e := by
  rw [EntryPasses, entryAbove_input_iff ht he, EntryOk, ← (toNat_entryAt_input ht he).2, Ne, Ne, ← BitVec.toNat_inj]
  rfl

end

/-! ### The statements -/

/-- Settles O46: by HUFD's checks of the length and of tableLen, in their order. -/
theorem hufdHeaderChecks : Obligations.HufdHeaderChecks := by
  intro s hfits
  have hlen := s.input_length
  refine ⟨fun h1 h3 => hufd_fails hfits (decompress_of_short _ _ (List.ne_nil_of_length_pos (by omega)) (by omega)), fun h4 => ?_⟩
  have ht := tableLen_input h4
  rw [← ht, ← hlen]
  rw [← hlen] at h4
  exact ⟨fun h => hufd_fails hfits (decompress_of_overrun _ _ h4 h),
    fun h => hufd_fails hfits (decompress_of_no_padding _ _ h4 h),
    fun h h5 => hufd_fails hfits (decompress_of_format _ _ h4 h h5)⟩

/-- Settles O47: the entries before are parsed, and the entry's own checks come in the statement's order. -/
theorem hufdTableChecks : Obligations.HufdTableChecks := by
  intro s e hfits h4 hlt h5 he hbefore
  have ht := tableLen_input h4
  obtain ⟨left, hleft⟩ := Nat.exists_eq_add_of_lt he
  have hparse := parseTable_of_passing (x := s.input) (left + 1) fun i hi =>
    (entryPasses_input_iff hlt (hi.trans he)).2 (hbefore i hi)
  rw [← Nat.add_assoc, ← hleft, ← ht] at hparse
  have hfail : ∀ {f : FreqTable} {c q}, Huffman.parseTable s.input (left + 1) e ((List.range e).map (entryAt s.input)) =
      (f, some (c, q)) → ∃ t, exec .hufd s = .next t ∧ FailedWith s t 2 (causeCode c).toNat q := fun hentry =>
    hufd_fails hfits (decompress_of_table_error _ _ (by rwa [s.input_length]) (by rwa [ht, s.input_length]) (by rwa [ht])
      (hparse.trans hentry))
  refine ⟨fun hpos hle => ?_, fun habove hzero => ?_⟩
  · refine hfail (parseTable_of_order left _ hpos ?_)
    rwa [BitVec.le_def, (toNat_entryAt_input hlt he).1, toNat_entryAt_input_pred hlt he]
  · refine hfail ((parseTable_of_above left _ ((entryAbove_input_iff hlt he).2 habove)).trans (if_pos ?_))
    rw [← BitVec.toNat_inj, (toNat_entryAt_input hlt he).2]
    exact hzero

/-- Settles O48: the whole table is parsed, and the padding check comes before the empty table. -/
theorem hufdPaddingAndEmptyTableChecks : Obligations.HufdPaddingAndEmptyTableChecks := by
  intro s hfits h4 hlt h5 hentries
  have ht := tableLen_input h4
  have hlen := s.input_length
  have hp : byteAt s.input (4 + srcField s 0) = s.srcByte (4 + srcField s 0) := byteAt_input (by omega)
  have hparse := parseTable_eq (x := s.input) fun i hi => (entryPasses_input_iff hlt hi).2 (hentries i hi)
  have hbody := decompress_of_table s.hidden s.params.dstCap (by rwa [hlen]) (by rwa [ht, hlen]) (by rwa [ht])
    (by rwa [ht])
  have hend := congrArg Prod.snd hbody
  dsimp only
  rw [← hp, ← hlen, ← ht]
  refine ⟨fun h => ?_, fun h h0 hpos => ?_, fun h h0 hpos => ?_⟩
  · exact hufd_fails hfits (hend.trans (decodeBody_of_padRange _ _ (by simpa [← BitVec.toNat_inj] using h)))
  · refine hufd_fails hfits (hend.trans ((decodeBody_of_empty_table _ _ h ?_ h0).trans (if_pos hpos)))
    exact fun hzero => absurd hzero hpos.ne'
  · refine hufd_completes hfits (hend.trans ((decodeBody_of_empty_table _ _ ?_ ?_ h0).trans (if_neg ?_))) (by decide)
    · exact h.le.trans (Nat.zero_le 7)
    · exact fun _ => BitVec.eq_of_toNat_eq h
    · exact hpos.not_gt

end Sys2Proof.Proofs
end

section
/-!
PROOFS. The family 40_huffman, the packed bits and the tree walk: unpacking after packing, HUFD of a blob with a legal table
as the walk over its bits, the walk over codes, and the round trip.
-/

namespace Sys2Proof.Proofs

open Sys2Proof.Machine Sys2Proof.Claims

/-! ### Packing and unpacking (30_encoding.md R104, 40_huffman.md R130) -/

theorem packedByte_congr {bits bits' : List Bool} (h : ∀ m, bits.getD m false = bits'.getD m false) (q : Nat) :
    packedByte bits q = packedByte bits' q := by
  simp only [packedByte, h]

theorem getD_append_zeros (bits : List Bool) (n m : Nat) :
    (bits ++ List.replicate n false).getD m false = bits.getD m false := by
  rcases lt_or_ge m bits.length with h | h
  · exact List.getD_append _ _ _ _ h
  · rw [List.getD_append_right _ _ _ _ h, List.getD_eq_default _ _ h]
    by_cases hm : m - bits.length < n <;> simp [hm]

/-- Packing pads with zero bits, so those that complete the last byte may be written out. -/
theorem packBits_append_zeros {bits : List Bool} {n : Nat} (h : packedLength (bits.length + n) = packedLength bits.length) :
    packBits (bits ++ List.replicate n false) = packBits bits := by
  rw [packBits, packBits, List.length_append, List.length_replicate, h]
  exact List.map_congr_left fun q _ => packedByte_congr (getD_append_zeros bits n) q

theorem packBits_zeros (n : Nat) : packBits (List.replicate n false) = List.replicate (packedLength n) 0 := by
  refine List.eq_replicate_iff.2 ⟨by rw [length_packBits, List.length_replicate], fun b hb => ?_⟩
  obtain ⟨q, -, rfl⟩ := List.mem_map.1 hb
  have hzero : packedByte (List.replicate n false) q = packedByte [] q := packedByte_congr (getD_append_zeros [] n) q
  rw [hzero]
  simp [packedByte, List.range_succ]

theorem byteBits_packedByte (bits : List Bool) (q : Nat) :
    byteBits (packedByte bits q) = (List.range 8).map fun r => bits.getD (8 * q + r) false :=
  List.map_congr_left fun _ hr => packedByte_getLsbD bits q (List.mem_range.1 hr)

theorem flatMap_range_eight (g : Nat → Bool) (n : Nat) :
    ((List.range n).flatMap fun q => (List.range 8).map fun r => g (8 * q + r)) = (List.range (8 * n)).map g := by
  induction n with
  | zero => rfl
  | succ n ih =>
    rw [List.range_succ (n := n), List.flatMap_append, ih, List.flatMap_singleton, Nat.mul_succ, List.range_add,
      List.map_append, List.map_map]
    rfl

/-- Whole bytes of bits come back from their packed bytes. -/
theorem unpackBits_packBits {bits : List Bool} (h : bits.length % 8 = 0) : unpackBits (packBits bits) = bits := by
  have hlen : 8 * packedLength bits.length = bits.length := by
    unfold packedLength
    omega
  rw [unpackBits, packBits, List.flatMap_map]
  simp only [byteBits_packedByte]
  rw [flatMap_range_eight fun m => bits.getD m false, hlen]
  refine List.ext_getElem (by simp) fun m _ hm => ?_
  simp [hm]

/-! ### HUFD of a blob with a legal table -/

section
variable {f : FreqTable} (hf : TableOk f) (bits pad : List Bool)

theorem length_huffmanBlob :
    (huffmanBlob f bits pad).length = 5 + 5 * f.length + packedLength (bits.length + pad.length) := by
  rw [huffmanBlob, List.length_append, List.length_cons, length_tableBytes, length_packBits, List.length_append]
  omega

theorem byteAt_huffmanBlob_padding : byteAt (huffmanBlob f bits pad) (4 + 5 * f.length) = BitVec.ofNat 8 pad.length := by
  rw [← length_tableBytes]
  exact byteAt_append_right _ _ 0

theorem drop_huffmanBlob : (huffmanBlob f bits pad).drop (5 + 5 * f.length) = packBits (bits ++ pad) := by
  have hlen : 5 + 5 * f.length = (Huffman.tableBytes f).length + 1 := by
    rw [length_tableBytes]
    omega
  rw [hlen, huffmanBlob, List.drop_length_add_append, List.drop_one, List.tail_cons]

theorem entryAt_huffmanBlob {e : Nat} (he : e < f.length) : entryAt (huffmanBlob f bits pad) e = f[e] :=
  Prod.ext (tableBytes_entry f _ he).1 (tableBytes_entry f _ he).2

include hf

theorem tableLen_huffmanBlob : Huffman.tableLen (huffmanBlob f bits pad) = 5 * f.length := by
  have hlen := length_le_of_ascending hf.2.1
  rw [Huffman.tableLen, huffmanBlob, be32At_tableBytes, BitVec.toNat_ofNat]
  omega

theorem entryPasses_huffmanBlob {e : Nat} (he : e < f.length) : EntryPasses (huffmanBlob f bits pad) e := by
  obtain ⟨-, hasc, hcount⟩ := hf
  refine ⟨fun hpos => ?_, ?_⟩
  · rw [entryAt_huffmanBlob _ _ he, entryAt_huffmanBlob _ _ (by omega : e - 1 < f.length)]
    have h := List.pairwise_iff_getElem.1 hasc (e - 1) e (by simp; omega) (by simpa using he) (by omega)
    simpa using h
  · rw [entryAt_huffmanBlob _ _ he]
    exact hcount _ (List.getElem_mem he)

theorem parseTable_huffmanBlob : Huffman.parseTable (huffmanBlob f bits pad) f.length 0 [] = (f, none) := by
  rw [parseTable_eq fun i hi => entryPasses_huffmanBlob hf bits pad hi]
  congr 1
  refine List.ext_getElem (by simp) fun e _ he => ?_
  simp [entryAt_huffmanBlob _ _ he]

variable {bits pad} (hpad : Pads bits pad)
include hpad

theorem packedBits_huffmanBlob : Huffman.packedBits (huffmanBlob f bits pad) = bits := by
  obtain ⟨hle, hmod⟩ := hpad
  have hcount : 8 * (5 + 5 * f.length + packedLength (bits.length + pad.length) - 5 - 5 * f.length) -
      (BitVec.ofNat 8 pad.length).toNat = bits.length := by
    rw [BitVec.toNat_ofNat, packedLength]
    omega
  rw [Huffman.packedBits, tableLen_huffmanBlob hf, drop_huffmanBlob, byteAt_huffmanBlob_padding, length_huffmanBlob, hcount,
    unpackBits_packBits (by rwa [List.length_append]), List.take_left]

/-- HUFD of such a blob walks the tree of its table over its bits (40_huffman.md R133 to R135). -/
theorem decompress_huffmanBlob (h : Hidden) (cap : Nat) :
    Huffman.decompress h (huffmanBlob f bits pad) cap =
      Huffman.walkBits (Huffman.setTables { h with freq := f } f) cap (5 + 5 * f.length) (huffmanBlob f bits pad).length bits
        0 (Huffman.buildTree f).root [] := by
  have hpos := List.length_pos_of_ne_nil hf.1
  have htable := tableLen_huffmanBlob hf bits pad
  have hlen := length_huffmanBlob (f := f) bits pad
  have hbyte := byteAt_huffmanBlob_padding (f := f) bits pad
  have hparse := parseTable_huffmanBlob hf bits pad
  have hbits := packedBits_huffmanBlob hf hpad
  obtain ⟨hle, hmod⟩ := hpad
  have hpacked : packedLength (bits.length + pad.length) = 0 → pad.length = 0 := by
    rw [packedLength]
    omega
  rw [decompress_of_table (f := f), decodeBody_of_table, htable, hbits]
  · rw [htable, hbyte, BitVec.toNat_ofNat]
    omega
  · rw [htable, hbyte, hlen]
    intro hzero
    rw [hpacked (by omega), BitVec.ofNat_eq_ofNat]
  · omega
  · omega
  · omega
  · omega
  · rwa [htable, Nat.mul_div_cancel_left _ (by decide)]

end

/-! ### The walk over codes (40_huffman.md R135) -/

section
variable {node : List Node} {x : BitVec 9} {t : Shape} (ht : Holds node (some x) t)
include ht

theorem Holds.child_fork {left right : Shape} (hfork : t = .fork left right) (bit : Bool) :
    Holds node (Huffman.child node x bit) (Shape.side left right bit) := by
  subst hfork
  cases ht with
  | fork hx hl hr => cases bit <;> simpa [Huffman.child, hx]

/-- A path of one bit or more leads on to the child of its first bit, and is there a path without that bit. -/
theorem Holds.child_of_path {b : Byte} {bit : Bool} {p : List Bool} (hp : (b, bit :: p) ∈ t.paths) :
    ∃ y t', Huffman.child node x bit = some y ∧ Holds node (some y) t' ∧ (b, p) ∈ t'.paths ∧ t'.height + 1 ≤ t.height := by
  cases t with
  | absent => cases hp
  | leaf c => cases (Shape.mem_paths_leaf.1 hp).2
  | fork left right =>
    have hpath := Shape.cons_mem_paths_fork.1 hp
    have hholds := ht.child_fork rfl bit
    cases hchild : Huffman.child node x bit with
    | none =>
      rw [hchild] at hholds
      generalize Shape.side left right bit = t' at hholds hpath
      cases hholds
      cases hpath
    | some y => exact ⟨y, _, rfl, hchild ▸ hholds, hpath, Shape.height_side left right bit⟩

/-- The empty path stands at a leaf. -/
theorem Holds.leafSym_of_nil {b : Byte} (hp : (b, []) ∈ t.paths) : Huffman.leafSym node x = some b := by
  cases ht with
  | leaf hx =>
    obtain ⟨rfl, -⟩ := Shape.mem_paths_leaf.1 hp
    simp [Huffman.leafSym, hx]
  | fork hx => simp [Shape.mem_paths_fork] at hp

/-- Any other path stands at an internal node. -/
theorem Holds.leafSym_of_ne_nil {b : Byte} {p : List Bool} (hp : (b, p) ∈ t.paths) (hne : p ≠ []) :
    Huffman.leafSym node x = none := by
  cases ht with
  | leaf hx => exact absurd (Shape.mem_paths_leaf.1 hp).2 hne
  | fork hx => simp [Huffman.leafSym, hx]

end

section
variable {h : Hidden} (cap first len : Nat) {cur nxt : BitVec 9} {bit : Bool} (bits : List Bool) (bp : Nat)
  (out : List Byte)

theorem walkBits_of_no_child (hchild : Huffman.child h.node cur bit = none) :
    (Huffman.walkBits h cap first len (bit :: bits) bp cur out).2 =
      .error .malformedInput .hufBadCode (first + bp / 8) := by
  simp [Huffman.walkBits, hchild]

theorem walkBits_of_fork (hchild : Huffman.child h.node cur bit = some nxt) (hleaf : Huffman.leafSym h.node nxt = none) :
    Huffman.walkBits h cap first len (bit :: bits) bp cur out =
      Huffman.walkBits h cap first len bits (bp + 1) nxt out := by
  simp [Huffman.walkBits, hchild, hleaf]

theorem walkBits_of_leaf {b : Byte} (hchild : Huffman.child h.node cur bit = some nxt)
    (hleaf : Huffman.leafSym h.node nxt = some b) :
    (Huffman.walkBits h cap first len (bit :: bits) bp cur out).2 =
      if out.length = cap then .error .decompressionFailed .outOverflow (first + bp / 8)
      else (Huffman.walkBits h cap first len bits (bp + 1) h.root (out ++ [b])).2 := by
  simp only [Huffman.walkBits, hchild, hleaf]
  split_ifs <;> rfl

end

section
variable {h : Hidden} (cap first len : Nat) {t : Shape} {cur : BitVec 9} (ht : Holds h.node (some cur) t)
include ht

/-- A whole path ends at its leaf: its symbol is put out, or has no room. -/
theorem walkBits_path {b : Byte} {p : List Bool} (hp : (b, p) ∈ t.paths) (hne : p ≠ []) (rest : List Bool) (bp : Nat)
    (out : List Byte) :
    (Huffman.walkBits h cap first len (p ++ rest) bp cur out).2 =
      if out.length = cap then .error .decompressionFailed .outOverflow (first + (bp + p.length - 1) / 8)
      else (Huffman.walkBits h cap first len rest (bp + p.length) h.root (out ++ [b])).2 := by
  induction p generalizing t cur bp with
  | nil => exact absurd rfl hne
  | cons bit p ih =>
    obtain ⟨y, t', hchild, hholds, hpath, -⟩ := ht.child_of_path hp
    cases p with
    | nil =>
      rw [List.singleton_append, walkBits_of_leaf _ _ _ _ _ _ hchild (hholds.leafSym_of_nil hpath), List.length_singleton,
        Nat.add_sub_cancel]
    | cons bit' p =>
      rw [List.cons_append, walkBits_of_fork _ _ _ _ _ _ hchild (hholds.leafSym_of_ne_nil hpath (List.cons_ne_nil _ _)),
        ih hholds hpath (List.cons_ne_nil _ _), List.length_cons (as := bit' :: p), Nat.add_assoc bp 1, Nat.add_comm 1]

/-- A proper part of a path ends inside the tree, at a smaller one. -/
theorem walkBits_part {b : Byte} {part rest : List Bool} (hp : (b, part ++ rest) ∈ t.paths) (hrest : rest ≠ []) (bp : Nat)
    (out : List Byte) :
    ∃ cur' t', Holds h.node (some cur') t' ∧ t'.height + part.length ≤ t.height ∧
      Huffman.walkBits h cap first len part bp cur out =
        Huffman.walkBits h cap first len [] (bp + part.length) cur' out := by
  induction part generalizing t cur bp with
  | nil => exact ⟨cur, t, ht, le_rfl, rfl⟩
  | cons bit part ih =>
    obtain ⟨y, t', hchild, hholds, hpath, hheight⟩ := ht.child_of_path hp
    have hne := List.append_ne_nil_of_right_ne_nil part hrest
    obtain ⟨cur', t'', hholds', hheight', hwalk⟩ := ih hholds hpath (bp + 1)
    refine ⟨cur', t'', hholds', ?_, ?_⟩
    · rw [List.length_cons]
      omega
    · rw [walkBits_of_fork _ _ _ _ _ _ hchild (hholds.leafSym_of_ne_nil hpath hne), hwalk, List.length_cons,
        Nat.add_assoc bp 1, Nat.add_comm 1]

end

/-! ### The walk over the codes of a table -/

/-- HUFD walks with the tree of the parsed table. -/
theorem setTables_root (h : Hidden) (f : FreqTable) : (Huffman.setTables h f).root = (Huffman.buildTree f).root := rfl

section
variable {f : FreqTable} (hf : TableOk f) (h : Hidden) (cap first len : Nat)
include hf

/-- The walk over one symbol's code. -/
theorem walkBits_codeOf {b : Byte} (hb : b ∈ f.map Prod.fst) (rest : List Bool) (bp : Nat) (out : List Byte) :
    (Huffman.walkBits (Huffman.setTables h f) cap first len (codeOf f b ++ rest) bp (Huffman.buildTree f).root out).2 =
      if out.length = cap then
        .error .decompressionFailed .outOverflow (first + (bp + (codeOf f b).length - 1) / 8)
      else
        (Huffman.walkBits (Huffman.setTables h f) cap first len rest (bp + (codeOf f b).length) (Huffman.buildTree f).root
          (out ++ [b])).2 := by
  obtain ⟨l, r, ht⟩ := exists_treeShape hf
  have hpath := (ht.mem_paths_iff hf).2 ⟨hb, rfl⟩
  have hne : codeOf f b ≠ [] := by
    obtain ⟨bit, q, hq, -⟩ := Shape.mem_paths_fork.1 hpath
    exact hq ▸ List.cons_ne_nil bit q
  exact walkBits_path cap first len (h := Huffman.setTables h f) ht.holds hpath hne rest bp out

/-- The walk over the codes of a string that has room puts the string out. -/
theorem walkBits_coded {y : List Byte} (hy : ∀ b ∈ y, b ∈ f.map Prod.fst) (rest : List Bool) (bp : Nat) {out : List Byte}
    (hroom : out.length + y.length ≤ cap) :
    (Huffman.walkBits (Huffman.setTables h f) cap first len (coded f y ++ rest) bp (Huffman.buildTree f).root out).2 =
      (Huffman.walkBits (Huffman.setTables h f) cap first len rest (bp + (coded f y).length) (Huffman.buildTree f).root
        (out ++ y)).2 := by
  induction y generalizing bp out with
  | nil => simp [coded]
  | cons b y ih =>
    obtain ⟨hb, hy⟩ := List.forall_mem_cons.1 hy
    rw [List.length_cons] at hroom
    have hcode : coded f (b :: y) = codeOf f b ++ coded f y := List.flatMap_cons
    rw [hcode, List.append_assoc, walkBits_codeOf hf _ _ _ _ hb, if_neg (by omega), ih hy _ (by simp; omega),
      List.length_append, Nat.add_assoc, List.append_assoc, List.singleton_append]

end

/-- Under a table of one symbol every code is the bit 0 (40_huffman.md R123). -/
theorem coded_singleton (e : Byte × Word) (n : Nat) : coded [e] (List.replicate n e.1) = List.replicate n false := by
  induction n with
  | zero => rfl
  | succ n ih =>
    rw [List.replicate_succ, List.replicate_succ, ← ih, coded, List.flatMap_cons, codeOf_singleton]
    rfl

theorem coded_concat (f : FreqTable) (y : List Byte) (b : Byte) : coded f (y ++ [b]) = coded f y ++ codeOf f b := by
  rw [coded, List.flatMap_append, List.flatMap_singleton, coded]

/-! ### HUFD of a blob of codes (40_huffman.md R135, R136) -/

section
variable {f : FreqTable} (hf : TableOk f) {y : List Byte} (hy : ∀ b ∈ y, b ∈ f.map Prod.fst) {bits pad : List Bool}
  (h : Hidden) {cap : Nat} (hroom : y.length ≤ cap)
include hf hy hroom

/-- HUFD of a blob whose bits begin with the codes of a string goes on after them with the string put out. -/
theorem decompress_after_coded {rest : List Bool} (hpad : Pads (coded f y ++ rest) pad) :
    (Huffman.decompress h (huffmanBlob f (coded f y ++ rest) pad) cap).2 =
      (Huffman.walkBits (Huffman.setTables { h with freq := f } f) cap (5 + 5 * f.length)
        (huffmanBlob f (coded f y ++ rest) pad).length rest (coded f y).length (Huffman.buildTree f).root y).2 := by
  rw [decompress_huffmanBlob hf hpad, walkBits_coded hf _ _ _ _ hy rest 0 (by simpa using hroom), Nat.zero_add,
    List.nil_append]

theorem decompress_coded (hpad : Pads (coded f y) pad) :
    (Huffman.decompress h (huffmanBlob f (coded f y) pad) cap).2 = .success y := by
  have hend := decompress_after_coded hf hy h hroom (rest := []) (by rwa [List.append_nil])
  rw [List.append_nil] at hend
  rw [hend, Huffman.walkBits, setTables_root, if_pos rfl]

variable (hpad : Pads bits pad)
include hpad

theorem decompress_bad_code (h1 : f.length = 1) (hbits : coded f y ++ [true] <+: bits) :
    (Huffman.decompress h (huffmanBlob f bits pad) cap).2 = .error .malformedInput .hufBadCode (10 + y.length / 8) := by
  obtain ⟨e, rfl⟩ := List.length_eq_one_iff.1 h1
  obtain ⟨rest, rfl⟩ := hbits
  have hcoded : coded [e] y = List.replicate y.length false := by
    rw [← coded_singleton e, ← List.eq_replicate_iff.2 ⟨rfl, fun b hb => by simpa using hy b hb⟩]
  have hchild : Huffman.child (Huffman.buildTree [e]).node (Huffman.buildTree [e]).root true = none := rfl
  rw [List.append_assoc, List.singleton_append] at hpad ⊢
  rw [decompress_after_coded hf hy h hroom hpad, walkBits_of_no_child _ _ _ _ _ _ hchild, hcoded, List.length_replicate]
  rfl

theorem decompress_truncated {part : List Bool} (hbits : bits = coded f y ++ part) (hne : part ≠ []) {e : Byte × Word}
    (he : e ∈ f) (hpart : part <+: codeOf f e.1) (hproper : part ≠ codeOf f e.1) :
    (Huffman.decompress h (huffmanBlob f bits pad) cap).2 =
      .error .malformedInput .hufTruncated (huffmanBlob f bits pad).length := by
  subst hbits
  obtain ⟨l, r, ht⟩ := exists_treeShape hf
  obtain ⟨rest, hrest⟩ := hpart
  have hpath := ht.codeOf_mem hf he
  rw [← hrest] at hpath hproper
  have hrest' : rest ≠ [] := fun hnil => hproper (by rw [hnil, List.append_nil])
  obtain ⟨cur, t, hholds, hheight, hwalk⟩ := walkBits_part cap (5 + 5 * f.length)
    (huffmanBlob f (coded f y ++ part) pad).length (h := Huffman.setTables { h with freq := f } f) ht.holds hpath hrest'
    (coded f y).length y
  have hroot : cur ≠ (Huffman.buildTree f).root := by
    rintro rfl
    rw [hholds.unique ht.holds] at hheight
    have := List.length_pos_of_ne_nil hne
    omega
  rw [decompress_after_coded hf hy h hroom hpad, hwalk, Huffman.walkBits, setTables_root, if_neg hroot]

theorem decompress_overflow {e : Byte × Word} (he : e ∈ f) (hfull : y.length = cap) (hbits : coded f (y ++ [e.1]) <+: bits) :
    (Huffman.decompress h (huffmanBlob f bits pad) cap).2 =
      .error .decompressionFailed .outOverflow (5 + 5 * f.length + ((coded f (y ++ [e.1])).length - 1) / 8) := by
  obtain ⟨rest, rfl⟩ := hbits
  rw [coded_concat, List.append_assoc] at hpad ⊢
  rw [decompress_after_coded hf hy h hroom hpad, walkBits_codeOf hf _ _ _ _ (List.mem_map_of_mem he), if_pos hfull,
    List.length_append]

end

/-! ### HUFC's blob as HUFD reads it -/

/-- HUFC's padding bits, written out. -/
def zeroPadding (bits : List Bool) : List Bool := List.replicate (paddingCount bits.length) false

theorem pads_zeroPadding (bits : List Bool) : Pads bits (zeroPadding bits) := by
  rw [Pads, zeroPadding, List.length_replicate, paddingCount, packedLength]
  omega

theorem blobOf_eq_huffmanBlob (f : FreqTable) (bits : List Bool) :
    Huffman.blobOf f bits = huffmanBlob f bits (zeroPadding bits) := by
  have hlen : packedLength (bits.length + paddingCount bits.length) = packedLength bits.length := by
    simp only [paddingCount, packedLength]
    omega
  rw [Huffman.blobOf, huffmanBlob, zeroPadding, List.length_replicate, packBits_append_zeros hlen]

/-- HUFD of HUFC's blob gives the input back where it has room (40_huffman.md R138). -/
theorem decompress_encoderBlob (h h' : Hidden) {x : List Byte} (hx : x ≠ []) (hlen : x.length < 2 ^ 32) {cap : Nat}
    (hroom : x.length ≤ cap) :
    (Huffman.decompress h (Huffman.encoderBlob (Huffman.encoderTables h' x) x) cap).2 = .success x := by
  rw [encoderBlob_eq, blobOf_eq_huffmanBlob]
  exact decompress_coded (tableOk_freqOf hx hlen) (fun b hb => mem_keys_freqOf hlen hb) h hroom (pads_zeroPadding _)

theorem freqOf_replicate (b : Byte) (n : Nat) :
    Huffman.freqOf (List.replicate (n + 1) b) = [(b, BitVec.ofNat 32 (n + 1))] := by
  induction n with
  | zero => rfl
  | succ n ih =>
    rw [List.replicate_succ', freqOf_concat, ih, Huffman.bump, if_neg (BitVec.lt_irrefl b), if_pos rfl,
      BitVec.ofNat_add (n + 1)]
    rfl

theorem tableBytes_singleton (b : Byte) (c : Word) : Huffman.tableBytes [(b, c)] = [0, 0, 0, 5, b] ++ bytesBE32 c := by
  have hlen : bytesBE32 (BitVec.ofNat 32 5) = [0, 0, 0, 5] := by decide
  simp [Huffman.tableBytes, Huffman.entryBytes, hlen]

/-- The blob of `n` bytes of one value (40_huffman.md R132). -/
theorem encoderBlob_replicate (h : Hidden) (b : Byte) {n : Nat} (hn : n ≠ 0) :
    Huffman.encoderBlob (Huffman.encoderTables h (List.replicate n b)) (List.replicate n b) =
      [0, 0, 0, 5, b] ++ bytesBE32 (BitVec.ofNat 32 n) ++
        BitVec.ofNat 8 (paddingCount n) :: List.replicate (packedLength n) 0 := by
  obtain ⟨m, rfl⟩ := Nat.exists_eq_succ_of_ne_zero hn
  rw [encoderBlob_eq, freqOf_replicate, coded_singleton (b, _), Huffman.blobOf, tableBytes_singleton, List.length_replicate,
    packBits_zeros]

/-! ### The success of HUFC -/

/-- A HUFC that completed with success had an input within SRC_CAP. -/
theorem fits_of_hufc_success {s t : State} (hexec : exec .hufc s = .next t) (hstatus : t.status = 0x00000002) : Fits s := by
  by_contra hfits
  have hlong : s.inputTooLong = true := s.inputTooLong_iff.2 (not_le.1 hfits)
  have hraise : exec .hufc s = .next (s.raise .compressionFailed .srcLenRange 0 .kept) := by
    simp [exec, execHufc, hlong]
  obtain rfl := Host.Outcome.next.inj (hraise.symm.trans hexec)
  rw [State.raise_status] at hstatus
  exact statusError_ne_statusSuccess _ _ hstatus

/-- A HUFC that completed with success put out its blob. -/
theorem completedWith_blob_of_hufc_success {s t : State} (hlegal : s.params.legal) (hexec : exec .hufc s = .next t)
    (hstatus : t.status = 0x00000002) (hlen : s.hidden.lenL ≠ 0) :
    CompletedWith s t (Huffman.encoderBlob (Huffman.encoderTables s.hidden s.input) s.input) := by
  obtain ⟨hsuccess, hoverflow⟩ := hufcWritesItsBlobOrOverflows s hlegal (fits_of_hufc_success hexec hstatus) hlen
  rcases le_or_gt (Huffman.encoderBlob (Huffman.encoderTables s.hidden s.input) s.input).length s.params.dstCap with h | h
  · obtain ⟨t', hexec', hend⟩ := hsuccess h
    exact Host.Outcome.next.inj (hexec'.symm.trans hexec) ▸ hend
  · obtain ⟨t', hexec', ⟨hfailed, -⟩, -⟩ := hoverflow h
    obtain rfl := Host.Outcome.next.inj (hexec'.symm.trans hexec)
    exact absurd (hstatus.symm.trans hfailed) (by decide)

/-- A state that holds an output has it as its input. -/
theorem input_of_holdsOutputOf {s t u : State} {out : List Byte} (hend : CompletedWith s t out) (hu : HoldsOutputOf u t) :
    u.input = out := by
  obtain ⟨-, hdstLen, -, -, hdst, -, -⟩ := hend
  obtain ⟨hlenL, hsrc⟩ := hu
  refine List.ext_getElem (by rw [u.input_length, hlenL, hdstLen]) fun a ha ha' => ?_
  rw [u.input_getElem, hsrc a (by rwa [hdstLen]), hdst a ha']

/-! ### The statements -/

/-- Settles O51: HUFD's walk over HUFC's blob puts the input out; the empty input is every command's empty success. -/
theorem huffmanRoundTrip : Obligations.HuffmanRoundTrip := by
  intro s t u hs hu hexec hstatus hholds hcap hroom
  have hfits : Fits u := by
    rw [Fits, hholds.1]
    exact hcap
  rw [← s.input_length] at hroom
  by_cases hlen : s.hidden.lenL = 0
  · have hinput := (input_eq_nil_iff s).2 hlen
    obtain ⟨t', hexec', hend⟩ := emptyInputGivesEmptyOutput s .hufc rfl hlen
    obtain rfl := Host.Outcome.next.inj (hexec'.symm.trans hexec)
    rw [hinput]
    exact emptyInputGivesEmptyOutput u .hufd rfl ((input_eq_nil_iff u).1 (input_of_holdsOutputOf hend hholds))
  · have hinput := input_of_holdsOutputOf (completedWith_blob_of_hufc_success hs hexec hstatus hlen) hholds
    refine hufd_completes hfits ?_ (length_input_lt s)
    rw [hinput]
    exact decompress_encoderBlob _ _ ((input_eq_nil_iff s).not.2 hlen) (length_input_lt s) hroom

/-- Settles O45: the one code is the bit 0, and packed zero bits are zero bytes. -/
theorem hufcOfOneRepeatedByte : Obligations.HufcOfOneRepeatedByte := by
  intro s b hlegal hfits hlen hsrc hroom
  have hinput : s.input = List.replicate s.hidden.lenL.toNat b := by
    refine List.ext_getElem (by simp) fun a ha _ => ?_
    rw [s.input_getElem, List.getElem_replicate, hsrc a (by simpa using ha)]
  have hblob := encoderBlob_replicate s.hidden b (n := s.hidden.lenL.toNat) fun h => hlen (BitVec.eq_of_toNat_eq h)
  rw [← hinput, BitVec.ofNat_toNat, BitVec.setWidth_eq] at hblob
  obtain ⟨hsuccess, -⟩ := hufcWritesItsBlobOrOverflows s hlegal hfits hlen
  rw [hblob] at hsuccess
  exact hsuccess (by simp [bytesBE32, packedLength]; omega)

/-- Settles O49: HUFD's walk over the codes puts the string out, and ends at the root. -/
theorem hufdDecodesCodedBits : Obligations.HufdDecodesCodedBits := by
  intro s f y pad hlegal hfits hf hy hpad hinput hroom
  refine hufd_completes hfits ?_ (lt_of_le_dstCap hlegal hroom)
  rw [hinput]
  exact decompress_coded hf (fun b hb => List.mem_map.2 (hy b hb)) s.hidden hroom hpad

/-- Settles O50: HUFD's walk over the codes of the string goes on into each failure. -/
theorem hufdWalkFailures : Obligations.HufdWalkFailures := by
  intro s f y bits pad _ hfits hf hy hpad hinput hroom
  have hy' : ∀ b ∈ y, b ∈ f.map Prod.fst := fun b hb => List.mem_map.2 (hy b hb)
  refine ⟨fun h1 hbits => ?_, ?_, fun e he hfull hbits => ?_⟩
  · have hend := decompress_bad_code hf hy' s.hidden hroom hpad h1 hbits
    rw [← hinput] at hend
    exact hufd_fails hfits hend
  · rintro ⟨part, hne, hbits, e, he, hpart, hproper⟩
    have hend := decompress_truncated hf hy' s.hidden hroom hpad hbits hne he hpart hproper
    rw [← hinput, s.input_length] at hend
    exact hufd_fails hfits hend
  · have hend := decompress_overflow hf hy' s.hidden hroom hpad he hfull hbits
    rw [← hinput] at hend
    exact hufd_fails hfits hend

end Sys2Proof.Proofs
end

section
/-!
PROOFS. The family 41_lz77, LZC: the search finds the selected match, the loop emits its tokens, and the ends of the command
in the words of the statements.
-/

namespace Sys2Proof.Proofs

open Sys2Proof.Machine Sys2Proof.Claims

/-! ### Matches (41_lz77.md R161, R162) -/

/-- The agreeing positions of two byte strings, the second at least as long as the cap. -/
theorem le_agreeing_iff {cap l : Nat} {a b : List Byte} (hb : cap ≤ b.length) :
    l ≤ Lz77.agreeing cap a b ↔ l ≤ cap ∧ ∀ r, r < l → a[r]? = b[r]? := by
  induction cap generalizing l a b with
  | zero =>
    rw [Lz77.agreeing]
    exact ⟨fun hl => ⟨hl, fun r hr => by omega⟩, And.left⟩
  | succ cap ih =>
    obtain _ | l := l
    · simp
    cases b with
    | nil => simp at hb
    | cons d b =>
      cases a with
      | nil =>
        refine ⟨fun hl => by simp [Lz77.agreeing] at hl, fun ⟨_, h⟩ => ?_⟩
        simpa using h 0 l.succ_pos
      | cons c a =>
        rw [Nat.forall_lt_succ_left]
        by_cases hcd : c = d
        · simp [Lz77.agreeing, hcd, ih (Nat.succ_le_succ_iff.1 hb)]
        · simp [Lz77.agreeing, hcd]

/-- The match length at a source is the longest agreement Lmax allows. -/
theorem le_matchLength_iff {x : List Byte} {i j l : Nat} : l ≤ Lz77.matchLength x i j ↔ l ≤ lmax x i ∧ Agree x j i l := by
  have hcap : Lz77.lengthCap x.length i ≤ (x.drop i).length := by
    rw [List.length_drop, Lz77.lengthCap]
    omega
  simp only [Lz77.matchLength, le_agreeing_iff hcap, List.getElem?_drop]
  rfl

theorem lmax_le (x : List Byte) (i : Nat) : lmax x i ≤ 255 ∧ lmax x i ≤ x.length - i - 1 := by
  rw [lmax]
  omega

/-! ### Match selection (41_lz77.md R160, R163) -/

/-- What the search holds when it has scanned the sources from `lo` up to `j`: a longest match and, of those, the oldest. -/
structure BestFrom (x : List Byte) (i lo j : Nat) (r : Search) : Prop where
  longest : ∀ k, lo ≤ k → k < j → Lz77.matchLength x i k ≤ r.bestLen
  noMatch : r.bestLen = 0 → r.bestOff = 0
  oldest : 0 < r.bestLen → ∃ k, lo ≤ k ∧ k < j ∧ r.bestOff = i - k ∧ r.bestLen = Lz77.matchLength x i k ∧
    ∀ m, lo ≤ m → m < k → Lz77.matchLength x i m < r.bestLen

theorem bestFrom_start {x : List Byte} {i lo : Nat} {r : Search} (hlen : r.bestLen = 0) (hoff : r.bestOff = 0) :
    BestFrom x i lo lo r where
  longest k hk hk' := by omega
  noMatch _ := hoff
  oldest h := by omega

theorem BestFrom.step {x : List Byte} {i lo j : Nat} {r : Search} (h : BestFrom x i lo j r) (hlo : lo ≤ j) :
    BestFrom x i lo (j + 1) (Lz77.tryOne x i r j) := by
  obtain ⟨hlongest, hnone, holdest⟩ := h
  unfold Lz77.tryOne
  split_ifs with hlt
  · have hpast : ∀ k, lo ≤ k → k < j → Lz77.matchLength x i k < Lz77.matchLength x i j :=
      fun k hk hkj => (hlongest k hk hkj).trans_lt hlt
    refine ⟨fun k hk hkj => ?_, fun h0 => ?_, fun _ => ⟨j, hlo, j.lt_succ_self, rfl, rfl, hpast⟩⟩
    · rcases Nat.lt_succ_iff_lt_or_eq.1 hkj with hkj | rfl
      · exact (hpast k hk hkj).le
      · exact le_rfl
    · exact absurd hlt (by simp only at h0; omega)
  · refine ⟨fun k hk hkj => ?_, hnone, fun hpos => ?_⟩
    · rcases Nat.lt_succ_iff_lt_or_eq.1 hkj with hkj | rfl
      · exact hlongest k hk hkj
      · exact not_lt.1 hlt
    · obtain ⟨k, hk, hkj, hbest⟩ := holdest hpos
      exact ⟨k, hk, hkj.trans j.lt_succ_self, hbest⟩

theorem bestFrom_foldl (x : List Byte) (i lo n : Nat) {r : Search} (hlen : r.bestLen = 0) (hoff : r.bestOff = 0) :
    BestFrom x i lo (lo + n) ((List.range' lo n).foldl (Lz77.tryOne x i) r) := by
  induction n with
  | zero => exact bestFrom_start hlen hoff
  | succ n ih =>
    rw [List.range'_1_concat, List.foldl_concat]
    exact ih.step (Nat.le_add_right lo n)

/-- A best match of the whole window is the selected one. -/
theorem selectedMatch_of_bestFrom {x : List Byte} {w i : Nat} {r : Search} (h : BestFrom x i (i - w) i r) :
    SelectedMatch x w i r.bestOff r.bestLen := by
  obtain ⟨hlongest, hnone, holdest⟩ := h
  have hlongest' : ∀ j l, i - w ≤ j → j < i → l ≤ lmax x i → Agree x j i l → l ≤ r.bestLen :=
    fun j l hj hji hl hagree => (le_matchLength_iff.2 ⟨hl, hagree⟩).trans (hlongest j hj hji)
  rcases Nat.eq_zero_or_pos r.bestLen with h0 | hpos
  · exact ⟨h0 ▸ Nat.zero_le _, hlongest', hnone, fun hpos => by omega⟩
  · obtain ⟨k, hk, hki, hoff, hlen, hfirst⟩ := holdest hpos
    obtain ⟨hmax, hagree⟩ := le_matchLength_iff.1 hlen.le
    have hsrc : i - r.bestOff = k := by omega
    refine ⟨hmax, hlongest', hnone, fun _ => ⟨by omega, by omega, by omega, hsrc ▸ hagree, fun j hj hjk hagree' => ?_⟩⟩
    exact (hfirst j hj (hsrc ▸ hjk)).not_ge (le_matchLength_iff.2 ⟨hmax, hagree'⟩)

theorem selectedMatch_search (x : List Byte) (w i : Nat) (r : Search) :
    SelectedMatch x w i (Lz77.search x w i r).bestOff (Lz77.search x w i r).bestLen := by
  have hstart : Lz77.windowStart w i = i - w := by
    unfold Lz77.windowStart
    split_ifs <;> omega
  unfold Lz77.search
  split_ifs with hcap
  · have hbest := bestFrom_foldl x i (i - w) (i - (i - w)) (r := { r with bestLen := 0, bestOff := 0 }) rfl rfl
    rw [Nat.add_sub_cancel' (Nat.sub_le i w)] at hbest
    rw [hstart]
    exact selectedMatch_of_bestFrom hbest
  · exact ⟨Nat.zero_le _, fun _ _ _ _ hl _ => hl.trans (not_lt.1 hcap), fun _ => rfl, fun hpos => absurd hpos (lt_irrefl 0)⟩

/-- The selected match lies in the window and in the input before, also where it is no match. -/
theorem source_of_selectedMatch {x : List Byte} {w i off len : Nat} (h : SelectedMatch x w i off len) :
    off ≤ i ∧ off ≤ w ∧ (off = 0 → len = 0) ∧ Agree x (i - off) i len := by
  obtain ⟨-, -, hnone, hfound⟩ := h
  rcases Nat.eq_zero_or_pos len with rfl | hpos
  · obtain rfl := hnone rfl
    exact ⟨Nat.zero_le i, Nat.zero_le w, fun _ => rfl, fun r hr => absurd hr (Nat.not_lt_zero r)⟩
  · obtain ⟨hoff, hoffi, hoffw, hagree, -⟩ := hfound hpos
    exact ⟨hoffi, hoffw, fun h0 => absurd h0 hoff.ne', hagree⟩

theorem selectedMatch_len_le {x : List Byte} {w i off len off' len' : Nat} (h : SelectedMatch x w i off len)
    (h' : SelectedMatch x w i off' len') : len' ≤ len := by
  obtain ⟨-, hlongest, -, -⟩ := h
  obtain ⟨hmax, -, -, hfound⟩ := h'
  rcases Nat.eq_zero_or_pos len' with h0 | hpos
  · exact h0 ▸ Nat.zero_le len
  · obtain ⟨hoff, hoffi, hoffw, hagree, -⟩ := hfound hpos
    exact hlongest (i - off') len' (by omega) (by omega) hmax hagree

theorem selectedMatch_off_le {x : List Byte} {w i off off' len : Nat} (h : SelectedMatch x w i off len)
    (h' : SelectedMatch x w i off' len) : off' ≤ off := by
  obtain ⟨-, -, -, hfound⟩ := h
  obtain ⟨-, -, hnone', hfound'⟩ := h'
  rcases Nat.eq_zero_or_pos len with h0 | hpos
  · exact hnone' h0 ▸ Nat.zero_le off
  · obtain ⟨hoff, hoffi, -, -, holdest⟩ := hfound hpos
    obtain ⟨-, hoffi', hoffw', hagree', -⟩ := hfound' hpos
    by_contra hlt
    exact holdest (i - off') (by omega) (by omega) hagree'

/-- One match is selected at each position. -/
theorem selectedMatch_unique {x : List Byte} {w i off len off' len' : Nat} (h : SelectedMatch x w i off len)
    (h' : SelectedMatch x w i off' len') : off = off' ∧ len = len' := by
  obtain rfl := Nat.le_antisymm (selectedMatch_len_le h' h) (selectedMatch_len_le h h')
  exact ⟨Nat.le_antisymm (selectedMatch_off_le h' h) (selectedMatch_off_le h h'), rfl⟩

/-! ### The bytes of tokens (30_encoding.md R106) -/

theorem tokBytes_concat (toks : List Tok) (off len : Nat) (lit : Byte) :
    tokBytes (toks ++ [(off, len, lit)]) = tokBytes toks ++ [BitVec.ofNat 8 off, BitVec.ofNat 8 len, lit] := by
  rw [tokBytes, List.flatMap_append, List.flatMap_singleton, tokBytes]

theorem length_tokBytes (toks : List Tok) : (tokBytes toks).length = 3 * toks.length := by
  simp [tokBytes, List.length_flatMap, Nat.mul_comm]

/-- Token `q` starts at byte `3q`. -/
theorem tokBytes_getElem? {toks : List Tok} {q : Nat} (hq : q < toks.length) :
    (tokBytes toks)[3 * q]? = some (BitVec.ofNat 8 toks[q].1) ∧
      (tokBytes toks)[3 * q + 1]? = some (BitVec.ofNat 8 toks[q].2.1) := by
  induction toks generalizing q with
  | nil => cases hq
  | cons t toks ih =>
    cases q with
    | zero => exact ⟨rfl, rfl⟩
    | succ q => exact ih (Nat.lt_of_succ_lt_succ hq)

/-! ### The tokens LZC emits (41_lz77.md R163 to R166) -/

section
variable {x : List Byte} {w i : Nat} {toks : List Tok}

theorem length_le_of_emitted (h : EmittedUpTo x w i toks) : toks.length ≤ i := by
  induction h with
  | start => exact le_rfl
  | token _ _ _ _ ih =>
    rw [List.length_append, List.length_singleton]
    omega

theorem position_le_of_emitted (h : EmittedUpTo x w i toks) : i ≤ x.length := by
  cases h with
  | start => exact Nat.zero_le _
  | token _ hi hsel _ =>
    have hlen := hsel.1.trans (lmax_le ..).2
    omega

/-- The search emits the next token. -/
theorem emitted_search (h : EmittedUpTo x w i toks) (hi : i < x.length) (r : Search) :
    ∃ lit, EmittedUpTo x w (i + (Lz77.search x w i r).bestLen + 1)
      (toks ++ [((Lz77.search x w i r).bestOff, (Lz77.search x w i r).bestLen, lit)]) := by
  have hsel := selectedMatch_search x w i r
  have hlen := hsel.1.trans (lmax_le ..).2
  exact ⟨_, h.token hi hsel (List.getElem?_eq_getElem (by omega))⟩

/-- Tokens up to a position go on to tokens of the whole input. -/
theorem exists_emitted_of_emitted {i : Nat} {toks : List Tok} (h : EmittedUpTo x w i toks) :
    ∃ toks', EmittedUpTo x w x.length toks' := by
  rcases (position_le_of_emitted h).lt_or_eq with hi | rfl
  · obtain ⟨lit, hnext⟩ := emitted_search h hi { bestLen := 0, bestOff := 0, j := 0, l := 0 }
    exact exists_emitted_of_emitted hnext
  · exact ⟨toks, h⟩
termination_by x.length - i

theorem exists_emitted (x : List Byte) (w : Nat) : ∃ toks, EmittedUpTo x w x.length toks :=
  exists_emitted_of_emitted .start

/-- Of tokens that do not all fit, one is the first without room. -/
theorem exists_overflow_of_emitted {cap : Nat} (h : EmittedUpTo x w i toks) (hcap : cap < 3 * toks.length) :
    ∃ i' toks', EmittedUpTo x w i' toks' ∧ i' < x.length ∧ 3 * toks'.length ≤ cap ∧ cap < 3 * toks'.length + 3 := by
  induction h with
  | start => exact absurd hcap (Nat.not_lt_zero cap)
  | @token i toks off len lit h hi hsel hlit ih =>
    rw [List.length_append, List.length_singleton] at hcap
    rcases lt_or_ge cap (3 * toks.length) with hlt | hge
    · exact ih hlt
    · exact ⟨i, toks, h, hi, hge, hcap⟩

/-- Each token has no match, or a match inside the window and within Lmax (41_lz77.md R170). -/
theorem ranges_of_emitted (h : EmittedUpTo x w i toks) {t : Tok} (ht : t ∈ toks) :
    (t.1 = 0 ∧ t.2.1 = 0) ∨ (1 ≤ t.1 ∧ t.1 ≤ w ∧ 1 ≤ t.2.1 ∧ t.2.1 ≤ 255) := by
  induction h with
  | start => cases ht
  | @token i toks off len lit h hi hsel hlit ih =>
    rcases List.mem_append.1 ht with ht | ht
    · exact ih ht
    · obtain rfl := List.mem_singleton.1 ht
      obtain ⟨hmax, -, hnone, hfound⟩ := hsel
      rcases Nat.eq_zero_or_pos len with h0 | hpos
      · exact .inl ⟨hnone h0, h0⟩
      · obtain ⟨hoff, -, hoffw, -⟩ := hfound hpos
        exact .inr ⟨hoff, hoffw, hpos, hmax.trans (lmax_le ..).1⟩

/-! ### LZC's loop (41_lz77.md R166) -/

theorem encodeLoop_covered (h : Hidden) (cap fuel : Nat) (r : Search) (out : List Byte) (hi : x.length ≤ i) :
    (Lz77.encodeLoop h x w cap fuel i r out).2 = .success out := by
  cases fuel with
  | zero => rfl
  | succ fuel => rw [Lz77.encodeLoop, if_neg (not_lt.2 hi)]

theorem encodeLoop_overflow (h : Hidden) {cap : Nat} (fuel : Nat) (r : Search) {out : List Byte} (hi : i < x.length)
    (hcap : cap < out.length + 3) :
    (Lz77.encodeLoop h x w cap (fuel + 1) i r out).2 = .error .compressionFailed .outOverflow i := by
  rw [Lz77.encodeLoop, if_pos hi, if_pos hcap]

/-- A pass of the loop with room puts out the selected match's token. -/
theorem encodeLoop_token (h : Hidden) {cap off len : Nat} {lit : Byte} (fuel : Nat) (r : Search) {out : List Byte}
    (hi : i < x.length) (hsel : SelectedMatch x w i off len) (hlit : x[i + len]? = some lit) (hcap : out.length + 3 ≤ cap) :
    Lz77.encodeLoop h x w cap (fuel + 1) i r out =
      Lz77.encodeLoop h x w cap fuel (i + len + 1) (Lz77.search x w i r)
        (out ++ [BitVec.ofNat 8 off, BitVec.ofNat 8 len, lit]) := by
  obtain ⟨hoff, hlen⟩ := selectedMatch_unique (selectedMatch_search x w i r) hsel
  have hbyte : byteAt x (i + len) = lit := by rw [byteAt, List.getD_eq_getElem?_getD, hlit, Option.getD_some]
  rw [Lz77.encodeLoop, if_pos hi, if_neg (not_lt.2 hcap), Lz77.tokenBytes, hoff, hlen, hbyte]

/-- The loop passes through the tokens emitted up to a position, one per unit of fuel, where they fit. -/
theorem encodeLoop_emitted (h : Hidden) {cap : Nat} (r : Search) (hem : EmittedUpTo x w i toks)
    (hcap : 3 * toks.length ≤ cap) :
    ∃ r', ∀ fuel, Lz77.encodeLoop h x w cap (fuel + toks.length) 0 r [] =
      Lz77.encodeLoop h x w cap fuel i r' (tokBytes toks) := by
  induction hem with
  | start => exact ⟨r, fun _ => rfl⟩
  | @token i toks off len lit _ hi hsel hlit ih =>
    rw [List.length_append, List.length_singleton] at hcap
    obtain ⟨r', hloop⟩ := ih (by omega)
    refine ⟨Lz77.search x w i r', fun fuel => ?_⟩
    have hfuel : fuel + (toks ++ [(off, len, lit)]).length = fuel + 1 + toks.length := by
      rw [List.length_append, List.length_singleton]
      omega
    rw [hfuel, hloop, encodeLoop_token h fuel r' hi hsel hlit (by rw [length_tokBytes]; omega), tokBytes_concat]

end

section
variable {x : List Byte} {i cap : Nat} {toks : List Tok} {w : Byte} (h : Hidden)

theorem lz77_compress_success (hem : EmittedUpTo x w.toNat x.length toks) (hcap : 3 * toks.length ≤ cap) :
    (Lz77.compress h x w cap).2 = .success (tokBytes toks) := by
  obtain ⟨r, hloop⟩ := encodeLoop_emitted h (Lz77.searchOf h) hem hcap
  have hfuel := hloop (x.length - toks.length)
  rw [Nat.sub_add_cancel (length_le_of_emitted hem)] at hfuel
  rw [Lz77.compress, hfuel, encodeLoop_covered h cap _ r _ le_rfl]

theorem lz77_compress_overflow (hem : EmittedUpTo x w.toNat i toks) (hi : i < x.length) (hcap : 3 * toks.length ≤ cap)
    (hfull : cap < 3 * toks.length + 3) :
    (Lz77.compress h x w cap).2 = .error .compressionFailed .outOverflow i := by
  obtain ⟨r, hloop⟩ := encodeLoop_emitted h (Lz77.searchOf h) hem hcap
  have hlen := length_le_of_emitted hem
  have hfuel := hloop (x.length - toks.length - 1 + 1)
  rw [show x.length - toks.length - 1 + 1 + toks.length = x.length by omega] at hfuel
  rw [Lz77.compress, hfuel, encodeLoop_overflow h _ r hi (by rwa [length_tokBytes])]

end

/-! ### The ends of LZC -/

theorem lz77_compress_endsWithin (h : Hidden) (x : List Byte) (w : Byte) (cap : Nat) :
    EndsWithin h x.length cap (Lz77.compress h x w cap) :=
  encodeLoop_endsWithin h x w.toNat _ _ _ (Nat.zero_le cap)

/-- A command that completed with success had an input within SRC_CAP. -/
theorem fits_of_success {i : Instr} (hi : isCommand i = true) {s t : State} (hexec : exec i s = .next t)
    (hstatus : t.status = 0x00000002) : Fits s := by
  obtain ⟨k, e, body, -, hrun⟩ := exec_eq_runCommand hi
  by_contra hfits
  have hlong : s.inputTooLong = true := s.inputTooLong_iff.2 (not_le.1 hfits)
  obtain rfl := Host.Outcome.next.inj ((hrun s).symm.trans hexec)
  rw [runCommand, if_pos hlong, State.raise_status] at hstatus
  exact statusError_ne_statusSuccess _ _ hstatus

theorem lzc_completes {s : State} {w : Byte} {toks : List Tok} (hlegal : s.params.legal) (hfits : Fits s)
    (hem : EmittedUpTo s.input w.toNat s.input.length toks) (hcap : 3 * toks.length ≤ s.params.dstCap) :
    ∃ t, exec (.lzc w) s = .next t ∧ CompletedWith s t (tokBytes toks) :=
  ⟨_, execLzc_of_fits hfits,
    finish_completedWith .lost (lz77_compress_endsWithin ..) (lz77_compress_success s.hidden hem hcap)
      (by rw [length_tokBytes]; exact lt_of_le_dstCap hlegal hcap)⟩

/-! ### The statements -/

/-- Settles O53: the loop reaches the position of the first token without room, whose search the relation's match is. -/
theorem lzcOverflowsAtTheTokenThatDoesNotFit : Obligations.LzcOverflowsAtTheTokenThatDoesNotFit := by
  intro s w i toks hfits hem hi hcap hfull
  rw [← s.input_length] at hi
  exact ⟨_, execLzc_of_fits hfits,
    finish_failedWith .lost (lz77_compress_endsWithin ..) (lz77_compress_overflow s.hidden hem hi hcap hfull)⟩

/-- Settles O52: the search selects a match at every position, and the loop emits its tokens. -/
theorem lzcEmitsTheSelectedMatches : Obligations.LzcEmitsTheSelectedMatches := by
  intro s w hlegal hfits
  obtain ⟨toks, hem⟩ := exists_emitted s.input w.toNat
  rw [← s.input_length]
  exact ⟨toks, hem, length_le_of_emitted hem, lzc_completes hlegal hfits hem⟩

/-- A LZC that completed with success put out the tokens of its whole input. -/
theorem emitted_of_lzc_success {s t : State} {w : Byte} (hlegal : s.params.legal) (hexec : exec (.lzc w) s = .next t)
    (hstatus : t.status = 0x00000002) :
    ∃ toks, EmittedUpTo s.input w.toNat s.input.length toks ∧ CompletedWith s t (tokBytes toks) := by
  have hfits := fits_of_success rfl hexec hstatus
  obtain ⟨toks, hem⟩ := exists_emitted s.input w.toNat
  rcases le_or_gt (3 * toks.length) s.params.dstCap with hcap | hcap
  · obtain ⟨t', hexec', hend⟩ := lzc_completes hlegal hfits hem hcap
    exact ⟨toks, hem, Host.Outcome.next.inj (hexec'.symm.trans hexec) ▸ hend⟩
  · obtain ⟨i, toks', hem', hi, hroom, hfull⟩ := exists_overflow_of_emitted hem hcap
    obtain ⟨t', hexec', hfailed, -⟩ :=
      lzcOverflowsAtTheTokenThatDoesNotFit s w i toks' hfits hem' (s.input_length ▸ hi) hroom hfull
    obtain rfl := Host.Outcome.next.inj (hexec'.symm.trans hexec)
    exact absurd (hstatus.symm.trans hfailed) (by decide)

/-- Settles O54: the output is the emitted tokens, each in its ranges. -/
theorem lzcTokenRanges : Obligations.LzcTokenRanges := by
  intro s t w hlegal hexec hstatus
  obtain ⟨toks, hem, -, hdstLen, -, -, hdst, -, -⟩ := emitted_of_lzc_success hlegal hexec hstatus
  rw [length_tokBytes] at hdstLen
  refine ⟨by omega, fun q hq => ?_⟩
  have hq' : q < toks.length := by omega
  obtain ⟨hoff, hlen⟩ := tokBytes_getElem? hq'
  obtain ⟨ha, hoff⟩ := List.getElem?_eq_some_iff.1 hoff
  obtain ⟨ha', hlen⟩ := List.getElem?_eq_some_iff.1 hlen
  rw [hdst _ ha, hdst _ ha', hoff, hlen]
  have hw := w.isLt
  rcases ranges_of_emitted hem (List.getElem_mem hq') with ⟨hoff0, hlen0⟩ | ⟨hoff1, hoffw, hlen1, hlen255⟩
  · exact .inl ⟨congrArg (BitVec.ofNat 8) hoff0, congrArg (BitVec.ofNat 8) hlen0⟩
  · rw [BitVec.toNat_ofNat, BitVec.toNat_ofNat, Nat.mod_eq_of_lt (by omega), Nat.mod_eq_of_lt (by omega)]
    exact .inr ⟨hoff1, by omega, hlen1, hlen255⟩

end Sys2Proof.Proofs
end

section
/-!
PROOFS. The family 41_lz77, LZD: the copy of a token, the walk over tokens whose checks pass, the checks, and the round trip.
-/

namespace Sys2Proof.Proofs

open Sys2Proof.Machine Sys2Proof.Claims

/-! ### One token (41_lz77.md R168) -/

/-- The copy rebuilds any string in which each byte from `b` on equals the one as far after `st`. -/
theorem copyBytes_take {full : List Byte} {st b : Nat} (hst : st < b) (len r : Nat) (hlen : b + r + len ≤ full.length)
    (h : ∀ q, r ≤ q → q < r + len → full[b + q]? = full[st + q]?) :
    Lz77.copyBytes st len r (full.take (b + r)) = full.take (b + r + len) := by
  induction len generalizing r with
  | zero => rfl
  | succ len ih =>
    have hbyte : full.take (b + r) ++ [byteAt (full.take (b + r)) (st + r)] = full.take (b + (r + 1)) := by
      rw [byteAt, List.getD_eq_getElem?_getD, List.getElem?_take_of_lt (by omega), ← h r le_rfl (by omega), ← Nat.add_assoc,
        List.take_add_one, List.getElem?_eq_getElem (by omega)]
      rfl
    rw [Lz77.copyBytes, hbyte, ih (r + 1) (by omega) fun q hq hq' => h q (by omega) (by omega)]
    congr 1
    omega

/-- A token whose checks pass appends the string whose bytes equal those `off` places before, and its literal. -/
theorem applyToken_eq {out copy : List Byte} {off len : Byte} (lit : Byte) (hoff : off.toNat ≤ out.length)
    (hzero : off = 0 → len = 0) (hcopy : copy.length = len.toNat)
    (h : ∀ r, r < len.toNat → (out ++ copy)[out.length + r]? = (out ++ copy)[out.length - off.toNat + r]?) :
    Lz77.applyToken off len lit out = out ++ copy ++ [lit] := by
  rw [Lz77.applyToken]
  congr 1
  by_cases h0 : off = 0
  · obtain rfl := hzero h0
    rw [List.length_eq_zero_iff.1 hcopy, List.append_nil]
    rfl
  · have hpos : off.toNat ≠ 0 := fun h => h0 (BitVec.eq_of_toNat_eq h)
    have hcopied := copyBytes_take (full := out ++ copy) (st := out.length - off.toNat) (b := out.length) (by omega) len.toNat
      0 (by rw [List.length_append, hcopy, Nat.add_zero]) fun q _ hq => h q (by omega)
    rwa [Nat.add_zero, List.take_left, ← hcopy, ← List.length_append, List.take_length, hcopy] at hcopied

section
variable {cap o : Nat} {off len : Byte}

theorem tokenError_of_offset_range (ho : o < off.toNat) :
    Lz77.tokenError cap off len o = some (.malformedInput, .lzOffsetRange) := by
  rw [Lz77.tokenError, if_pos ho]

theorem tokenError_of_zero_offset (h0 : off = 0) (hlen : 0 < len.toNat) :
    Lz77.tokenError cap off len o = some (.malformedInput, .lzZeroOffset) := by
  have hle : ¬o < off.toNat := h0 ▸ Nat.not_lt_zero o
  rw [Lz77.tokenError, if_neg hle, if_pos ⟨h0, hlen⟩]

/-- A token that passes the checks of its offset is checked for room. -/
theorem tokenError_of_offset_ok (hoff : off.toNat ≤ o) (hzero : off = 0 → len = 0) :
    Lz77.tokenError cap off len o =
      if cap < o + len.toNat + 1 then some (.decompressionFailed, .outOverflow) else none := by
  have hpass : ¬(off = 0 ∧ 0 < len.toNat) := fun ⟨h0, hlen⟩ => by simp [hzero h0] at hlen
  rw [Lz77.tokenError, if_neg (not_lt.2 hoff), if_neg hpass]

end

/-! ### The walk over the tokens (41_lz77.md R167 to R169) -/

theorem rawBytes_append (toks toks' : List RawTok) : rawBytes (toks ++ toks') = rawBytes toks ++ rawBytes toks' :=
  List.flatMap_append

theorem length_rawBytes (toks : List RawTok) : (rawBytes toks).length = 3 * toks.length := by
  simp [rawBytes, List.length_flatMap, Nat.mul_comm]

theorem decodeLoop_token_error (h : Hidden) {cap : Nat} {off len : Byte} (lit : Byte) (x : List Byte) (t : Nat)
    {out : List Byte} {k : ErrKind} {c : Cause} (herr : Lz77.tokenError cap off len out.length = some (k, c)) :
    (Lz77.decodeLoop h cap (off :: len :: lit :: x) t out).2 = .error k c (3 * t) := by
  rw [Lz77.decodeLoop, herr]

theorem decodeLoop_token_ok (h : Hidden) {cap : Nat} {off len : Byte} (lit : Byte) (x : List Byte) (t : Nat)
    {out : List Byte} (hok : Lz77.tokenError cap off len out.length = none) :
    Lz77.decodeLoop h cap (off :: len :: lit :: x) t out =
      Lz77.decodeLoop h cap x (t + 1) (Lz77.applyToken off len lit out) := by
  rw [Lz77.decodeLoop, hok]

/-- The loop passes through tokens whose checks pass and whose expansion fits. -/
theorem decodeLoop_expands (h : Hidden) {cap : Nat} {toks : List RawTok} {out : List Byte} (hexp : Expands toks out)
    (hcap : out.length ≤ cap) (x : List Byte) :
    Lz77.decodeLoop h cap (rawBytes toks ++ x) 0 [] = Lz77.decodeLoop h cap x toks.length out := by
  induction hexp generalizing x with
  | empty => rfl
  | @token toks out copy off len lit _ hoff hzero hcopy hbytes ih =>
    rw [List.length_append, List.length_append, hcopy, List.length_singleton] at hcap
    have hok : Lz77.tokenError cap off len out.length = none := by
      rw [tokenError_of_offset_ok hoff hzero, if_neg (not_lt.2 hcap)]
    rw [rawBytes_append, List.append_assoc, ih (by omega), List.length_append, List.length_singleton,
      ← applyToken_eq lit hoff hzero hcopy hbytes]
    exact decodeLoop_token_ok h lit x toks.length hok

/-- LZD of whole tokens is the walk over them. -/
theorem lz77_decompress_rawBytes (h : Hidden) (toks : List RawTok) (cap : Nat) :
    Lz77.decompress h (rawBytes toks) cap = Lz77.decodeLoop h cap (rawBytes toks) 0 [] := by
  rw [Lz77.decompress, if_neg (by rw [length_rawBytes]; omega)]

section
variable (h : Hidden) {cap : Nat} {toks : List RawTok} {out : List Byte} (hexp : Expands toks out) (hcap : out.length ≤ cap)
include hexp hcap

theorem lz77_decompress_success : (Lz77.decompress h (rawBytes toks) cap).2 = .success out := by
  have hwalk := decodeLoop_expands h hexp hcap []
  rw [List.append_nil] at hwalk
  rw [lz77_decompress_rawBytes, hwalk, Lz77.decodeLoop]

theorem lz77_decompress_token_error {off len : Byte} {k : ErrKind} {c : Cause}
    (herr : Lz77.tokenError cap off len out.length = some (k, c)) (lit : Byte) (rest : List RawTok) :
    (Lz77.decompress h (rawBytes (toks ++ (off, len, lit) :: rest)) cap).2 = .error k c (3 * toks.length) := by
  rw [lz77_decompress_rawBytes, rawBytes_append, decodeLoop_expands h hexp hcap]
  exact decodeLoop_token_error h lit (rawBytes rest) toks.length herr

end

/-! ### LZD of LZC's tokens (41_lz77.md R171) -/

/-- A token as the three bytes of a blob. -/
def rawTok (t : Tok) : RawTok := (BitVec.ofNat 8 t.1, BitVec.ofNat 8 t.2.1, t.2.2)

theorem tokBytes_eq_rawBytes (toks : List Tok) : tokBytes toks = rawBytes (toks.map rawTok) := by
  rw [rawBytes, List.flatMap_map]
  rfl

/-- The tokens emitted up to a position expand to the input up to there. -/
theorem expands_of_emitted {x : List Byte} {w i : Nat} {toks : List Tok} (hw : w ≤ 255) (hem : EmittedUpTo x w i toks) :
    Expands (toks.map rawTok) (x.take i) := by
  induction hem with
  | start => exact .empty
  | @token i toks off len lit _ hi hsel hlit ih =>
    obtain ⟨hlen255, hlenx⟩ := lmax_le x i
    have hmax := hsel.1
    obtain ⟨hoffi, hoffw, hzero, hagree⟩ := source_of_selectedMatch hsel
    have hoff8 : (BitVec.ofNat 8 off).toNat = off := Nat.mod_eq_of_lt (by omega)
    have hlen8 : (BitVec.ofNat 8 len).toNat = len := Nat.mod_eq_of_lt (by omega)
    have hout : (x.take i).length = i := List.length_take_of_le hi.le
    have hcopied : x.take i ++ (x.drop i).take len = x.take (i + len) := List.take_add.symm
    have htake : x.take (i + len + 1) = x.take i ++ (x.drop i).take len ++ [lit] := by
      rw [List.take_add_one, hlit, hcopied]
      rfl
    rw [List.map_append, htake]
    refine ih.token (by rwa [hout, hoff8]) (fun h0 => ?_) ?_ fun r hr => ?_
    · exact congrArg (BitVec.ofNat 8) (hzero (hoff8.symm.trans (congrArg BitVec.toNat h0)))
    · rw [hlen8, List.length_take, List.length_drop]
      omega
    · rw [hlen8] at hr
      rw [hcopied, hout, hoff8, List.getElem?_take_of_lt (by omega), List.getElem?_take_of_lt (by omega), hagree r hr]

/-! ### The statements -/

theorem lzd_fails {s : State} {k : ErrKind} {c : Cause} {pos : Nat} (hfits : Fits s)
    (hend : (Lz77.decompress s.hidden s.input s.params.dstCap).2 = .error k c pos) :
    ∃ t, exec .lzd s = .next t ∧ FailedWith s t (kindCode k).toNat (causeCode c).toNat pos :=
  ⟨_, execLzd_of_fits hfits, finish_failedWith .lost (lz77_decompress_endsWithin ..) hend⟩

/-- Settles O56: the loop walks over the tokens to the end of the blob. -/
theorem lzdExpandsItsTokens : Obligations.LzdExpandsItsTokens := by
  intro s toks out hlegal hfits hinput hexp hcap
  have hend := lz77_decompress_success s.hidden hexp hcap
  rw [← hinput] at hend
  exact ⟨_, execLzd_of_fits hfits,
    finish_completedWith .lost (lz77_decompress_endsWithin ..) hend (lt_of_le_dstCap hlegal hcap)⟩

/-- Settles O57: the loop walks over the tokens before, and the checks of the next come in the statement's order. -/
theorem lzdTokenChecks : Obligations.LzdTokenChecks := by
  intro s toks out off len lit rest hfits hinput hexp hcap
  have hfails : ∀ k c, Lz77.tokenError s.params.dstCap off len out.length = some (k, c) →
      ∃ t, exec .lzd s = .next t ∧ FailedWith s t (kindCode k).toNat (causeCode c).toNat (3 * toks.length) := fun _ _ herr =>
    lzd_fails hfits (hinput ▸ lz77_decompress_token_error s.hidden hexp hcap herr lit rest)
  refine ⟨fun hoff => hfails .malformedInput .lzOffsetRange (tokenError_of_offset_range hoff),
    fun h0 hlen => hfails .malformedInput .lzZeroOffset (tokenError_of_zero_offset h0 hlen),
    fun hoff hzero hfull => hfails .decompressionFailed .outOverflow ?_⟩
  rw [tokenError_of_offset_ok hoff hzero, if_pos hfull]

/-- Settles O55: LZD checks the length before its loop. -/
theorem lzdLengthCheck : Obligations.LzdLengthCheck := by
  intro s hfits hlen
  rw [← s.input_length] at hlen ⊢
  exact lzd_fails hfits (by rw [Lz77.decompress, if_pos hlen])

/-- Settles O58: the tokens LZC put out expand to its input. -/
theorem lz77RoundTrip : Obligations.Lz77RoundTrip := by
  intro s t u w hs hu hexec hstatus hholds hcap hroom
  obtain ⟨toks, hem, hend⟩ := emitted_of_lzc_success hs hexec hstatus
  have hinput := input_of_holdsOutputOf hend hholds
  rw [tokBytes_eq_rawBytes] at hinput
  have hexp := expands_of_emitted (Nat.le_of_lt_succ w.isLt) hem
  rw [List.take_length] at hexp
  have hfits : Fits u := by rwa [Fits, hholds.1]
  exact lzdExpandsItsTokens u _ _ hu hfits hinput hexp (s.input_length ▸ hroom)

end Sys2Proof.Proofs
end

section
/-!
PROOFS. The family 42_control: the host's control operations and the end of every running command. The equations of the
control operations and of the register page come first, then the end of a running command as an induction over the
schedule, then the ten statements.
-/

namespace Sys2Proof.Proofs

open Sys2Proof.Machine Sys2Proof.Claims

/-! ### START, SRESET and INTACK (42_control.md R190 to R195) -/

theorem exec_start_idle {s : State} {v : Word} (h0 : v.getLsbD 0 = true) (h1 : v.getLsbD 1 = false)
    (hidle : s.busy = false) : exec (.start v) s = .next (s.accept.respond .ok) := by
  rw [exec, execStart, h0, h1, hidle]
  rfl

theorem exec_start_busy {s : State} (v : Word) (hbusy : s.busy = true) : exec (.start v) s = .next (s.respond .ok) := by
  rw [exec, execStart, hbusy, Bool.not_true, Bool.and_false]
  rfl

theorem exec_sreset {v : Word} (s : State) (h1 : v.getLsbD 1 = true) :
    exec (.sreset v) s = .next (s.resetBlock.respond .ok) :=
  if_pos h1

theorem exec_intack {v : Word} (s : State) (h0 : v.getLsbD 0 = true) :
    exec (.intack v) s = .next (s.acknowledge.respond .ok) :=
  if_pos h0

/-- The START row's fixed bits (42_control.md R190). -/
theorem start_bits {v : Word} (h : v &&& 3 = 1) : v.getLsbD 0 = true ∧ v.getLsbD 1 = false := by
  have hbit (k : Nat) : (v &&& 3#32).getLsbD k = (1#32).getLsbD k := congrArg (BitVec.getLsbD · k) h
  exact ⟨by simpa using hbit 0, by simpa using hbit 1⟩

/-- Reset writes the registers, the hidden state, DST and the draws, and nothing else (70_reset_and_hazards.md R240 to
R242). -/
theorem resetBlock_eq (s : State) :
    s.resetBlock = { s with
      cmd := 0, srcLen := 0, dstLen := 0, status := 0, errPos := 0, doneIe := false, doneIp := false,
      hidden := s.resetBlock.hidden, dst := s.resetBlock.dst, dstDraw := s.resetBlock.dstDraw,
      draws := s.resetBlock.draws } := by
  unfold State.resetBlock
  split <;> rfl

/-- A 32-bit write to CTRL is decoded by its bits 1 and 0 (42_control.md R190, 60_exceptions.md R219). -/
theorem decode_ctrl_write (p : Params) (v : Word) :
    decode p (.access (write 0x010 v)) =
      if v.getLsbD 1 then .ok (.sreset v) else if v.getLsbD 0 then .ok (.start v) else .error .ctrlNothing :=
  decode_register_write p (by decide) (by decide) v

section
variable (p : Params) {v : Word}

theorem decode_ctrl_write_sreset (h1 : v.getLsbD 1 = true) : decode p (.access (write 0x010 v)) = .ok (.sreset v) :=
  (decode_ctrl_write p v).trans (if_pos h1)

theorem decode_ctrl_write_start (h1 : v.getLsbD 1 = false) (h0 : v.getLsbD 0 = true) :
    decode p (.access (write 0x010 v)) = .ok (.start v) := by
  rw [decode_ctrl_write, h1, h0]
  rfl

theorem decode_ctrl_write_nothing (h1 : v.getLsbD 1 = false) (h0 : v.getLsbD 0 = false) :
    decode p (.access (write 0x010 v)) = .error .ctrlNothing := by
  rw [decode_ctrl_write, h1, h0]
  rfl

/-- A 32-bit write to INT_STAT with bit 0 clear is no INTACK (42_control.md R195). -/
theorem decode_intStat_write_nothing (h0 : v.getLsbD 0 = false) :
    decode p (.access (write 0x02C v)) = .error .intStatNothing := by
  have hdec : decode p (.access (write 0x02C v)) = decodeRegWrite 0x02C v :=
    decode_register_write p (by decide) (by decide) v
  rw [hdec, decodeRegWrite, h0]
  rfl

end

/-! ### The register page's reads (42_control.md R198) -/

theorem exec_rdReg {off : Offset} (s : State) (h : off.toNat ≤ 0xFFC) (ha : off.toNat % 4 = 0) :
    exec (.rdReg off) s = .next (s.respond (.data (s.readRegister off))) :=
  if_pos (registerAccessOk_of_le s.params h ha)

theorem intEnWord_eq (s : State) : s.intEnWord = if s.doneIe then 1 else 0 := by
  unfold State.intEnWord
  cases s.doneIe <;> rfl

theorem intStatWord_eq (s : State) : s.intStatWord = if s.doneIp then 1 else 0 := by
  unfold State.intStatWord
  cases s.doneIp <;> rfl

/-- The twelve registers, each with the value a read returns (10_state.md R22 to R34). -/
def registerPage (s : State) : List (Offset × Word) :=
  [(0x000, 0x48464C5A), (0x004, 0x00010000), (0x008, BitVec.ofNat 32 s.params.srcCap),
    (0x00C, BitVec.ofNat 32 s.params.dstCap), (0x010, 0), (0x014, s.cmd), (0x018, s.srcLen), (0x01C, s.dstLen),
    (0x020, s.status), (0x024, s.errPos), (0x028, if s.doneIe then 1 else 0), (0x02C, if s.doneIp then 1 else 0)]

theorem readRegister_of_mem_registerPage (s : State) :
    ∀ r ∈ registerPage s, r.1.toNat ≤ 0xFFC ∧ r.1.toNat % 4 = 0 ∧ s.readRegister r.1 = r.2 := by
  simp [registerPage, State.readRegister, idValue, versionValue, intEnWord_eq, intStatWord_eq]

/-! ### The end of a running command -/

theorem done_of_commandEnd {s t : State} {own : DstEffect} (h : CommandEnd s own t) : t.done = true := by
  cases h with
  | success => rw [State.done, State.complete_status, statusSuccess_bits.2.1]
  | error h k c pos e => rw [State.done, State.raise_status, (statusError_bits k c).2.1]

theorem doneIp_of_commandEnd {s t : State} {own : DstEffect} (h : CommandEnd s own t) : t.doneIp = true := by
  cases h with
  | success => rfl
  | error h k c pos e => exact State.raise_doneIp ..

/-- Outside reset the engine's turn ends the running command (42_control.md R192, R193). -/
theorem engineTurn_ends {s : State} (hbusy : s.busy = true) (hrst : s.rst = false) :
    ∃ t own, engineTurn s = .next t ∧ CommandEnd s own t := by
  rcases engineTurn_cases s with ⟨hr | hb, -⟩ | ⟨-, -, i, hi, ht⟩ | ⟨-, -, r, -, ht⟩
  · exact absurd (hrst.symm.trans hr) Bool.false_ne_true
  · exact absurd (hb.symm.trans hbusy) Bool.false_ne_true
  · obtain ⟨t, hexec, hend⟩ := exec_commandEnd (isCommand_of_decodeCommand hi) s
    exact ⟨t, _, ht.trans hexec, hend⟩
  · exact ⟨_, _, ht, badCommand_commandEnd s⟩

/-- An event that abandons no command: neither asserts rst nor is an SRESET (70_reset_and_hazards.md R240). -/
def AbandonsNothing (p : Params) (e : Event) : Prop :=
  e ≠ .rst true ∧ ∀ a, e = .host a → ∀ v, decode p (.access a) ≠ .ok (.sreset v)

/-- The command of `s` still runs in `t`, outside reset and with the same schedule and parameters. -/
structure StillRuns (s t : State) : Prop where
  busy : t.busy = true
  rst : t.rst = false
  params : t.params = s.params
  events : t.events = s.events

/-- A host access other than SRESET leaves a running command running (42_control.md R191, 20_memory.md R68). -/
theorem stillRuns_of_hostEffect {s t : State} {a : Access} (hbusy : s.busy = true) (hrst : s.rst = false)
    (ha : AbandonsNothing s.params (.host a)) (h : HostEffect s a t) : StillRuns s t := by
  cases h with
  | accept v h1 h0 hidle => exact absurd (hbusy.symm.trans hidle) (by decide)
  | window v w off tgt hr hidle => exact absurd (hbusy.symm.trans hidle) (by decide)
  | reset v h1 => exact absurd (decode_ctrl_write_sreset s.params h1) (ha.2 _ rfl v)
  | answer | acknowledge | register | freeRead => exact ⟨hbusy, hrst, rfl, rfl⟩

/-- An event that abandons nothing lets the running command run on or ends it. -/
theorem takeEvent_running {s : State} {e : Event} (hbusy : s.busy = true) (hrst : s.rst = false)
    (he : AbandonsNothing s.params e) :
    ∃ t, takeEvent e s = .next t ∧ (StillRuns s t ∨ ∃ own, CommandEnd s own t) := by
  cases e with
  | host a =>
    obtain ⟨t, ht⟩ := hostTurn_answers_next a s
    exact ⟨t, ht, .inl (stillRuns_of_hostEffect hbusy hrst he (hostTurn_effect ht))⟩
  | engine =>
    obtain ⟨t, own, ht, hend⟩ := engineTurn_ends hbusy hrst
    exact ⟨t, ht, .inr ⟨own, hend⟩⟩
  | rst level =>
    cases level with
    | true => exact absurd rfl he.1
    | false => exact ⟨_, rfl, .inl ⟨hbusy, rfl, rfl, rfl⟩⟩

/-- A run of at most `n` steps from `s` reaches a state with DONE set and BUSY clear. -/
def DoneWithin (n : Nat) (s : State) : Prop :=
  ∃ k, k ≤ n ∧ ∃ t : State, Host.Core.run core k s = .next t ∧ t.done = true ∧ t.busy = false

theorem doneWithin_of_commandEnd {s t : State} {own : DstEffect} (n : Nat) (h : CommandEnd s own t) : DoneWithin n t :=
  ⟨0, Nat.zero_le n, t, rfl, done_of_commandEnd h, not_busy_of_commandEnd h⟩

theorem run_succ_of_step {M : Host.Core} {s t : M.State} (h : M.step s = .next t) (k : Nat) :
    M.run (k + 1) s = M.run k t := by
  rw [Host.Core.run, h]

theorem doneWithin_of_step {s t : State} {n : Nat} (hstep : step s = .next t) (h : DoneWithin n t) :
    DoneWithin (n + 1) s := by
  obtain ⟨k, hk, u, hrun, hu⟩ := h
  exact ⟨k + 1, Nat.succ_le_succ hk, u, (run_succ_of_step (M := core) hstep k).trans hrun, hu⟩

/-- A running command ends at the latest with the step after the schedule's last event, by induction on the schedule. -/
theorem running_doneWithin (s : State) (hbusy : s.busy = true) (hrst : s.rst = false)
    (hes : ∀ e ∈ s.events, AbandonsNothing s.params e) : DoneWithin (s.events.length + 1) s := by
  generalize hs : s.events = es at hes ⊢
  induction es generalizing s with
  | nil =>
    obtain ⟨t, own, ht, hend⟩ := engineTurn_ends hbusy hrst
    exact doneWithin_of_step ((step_nil hs).trans ht) (doneWithin_of_commandEnd _ hend)
  | cons e es ih =>
    obtain ⟨he, hes⟩ := List.forall_mem_cons.1 hes
    obtain ⟨t, ht, hruns | ⟨own, hend⟩⟩ := takeEvent_running (s := { s with events := es }) hbusy hrst he
    · refine doneWithin_of_step ((step_cons hs).trans ht) (ih t hruns.busy hruns.rst hruns.events ?_)
      rwa [hruns.params]
    · exact doneWithin_of_step ((step_cons hs).trans ht) (doneWithin_of_commandEnd _ hend)

/-! ### The statements -/

/-- Settles O16: by induction on the schedule, whose every event lets the command run on or ends it. -/
theorem everyRunningCommandEnds : Obligations.EveryRunningCommandEnds :=
  running_doneWithin

/-- Settles O19: reset writes what it lists, and an idle one keeps DST. -/
theorem softResetCompletes : Obligations.SoftResetCompletes := by
  intro s v h1
  refine ⟨s.resetBlock.hidden, s.resetBlock.dst, s.resetBlock.dstDraw, s.resetBlock.draws, ?_, fun hidle => ?_⟩
  · exact (exec_sreset s h1).trans (congrArg (fun t => Host.Outcome.next (t.respond .ok)) (resetBlock_eq s))
  · rw [State.resetBlock_idle s hidle]
    exact ⟨rfl, rfl⟩

/-- Settles O21: the decoder tests bit 1 and then bit 0, and a START looks at BUSY. -/
theorem ctrlWriteStartsOrResetsOrDoesNothing : Obligations.CtrlWriteStartsOrResetsOrDoesNothing := by
  refine fun s v hrst => ⟨fun h1 => ?_, fun h1 h0 hidle => ?_, fun h1 h0 hbusy => ?_, fun h1 h0 => ?_⟩
  · exact (hostTurn_of_decode hrst (decode_ctrl_write_sreset s.params h1)).trans (exec_sreset s h1)
  · exact (hostTurn_of_decode hrst (decode_ctrl_write_start s.params h1 h0)).trans (exec_start_idle h0 h1 hidle)
  · exact (hostTurn_of_decode hrst (decode_ctrl_write_start s.params h1 h0)).trans (exec_start_busy v hbusy)
  · exact hostTurn_of_reject hrst (decode_ctrl_write_nothing s.params h1 h0)

/-- Settles O22: the row's fixed bits are START set and SRESET clear. -/
theorem startIsAcceptedWhenIdle : Obligations.StartIsAcceptedWhenIdle := by
  intro s v hv hidle
  obtain ⟨h0, h1⟩ := start_bits hv
  exact exec_start_idle h0 h1 hidle

/-- Settles O23: a START looks at BUSY whatever its data are. -/
theorem startIsDroppedWhenBusy : Obligations.StartIsDroppedWhenBusy :=
  fun _ v hbusy => exec_start_busy v hbusy

/-- Settles O24: each command tests its latched length before its body. -/
theorem tooLongInputEndsAsSrcLenRange : Obligations.TooLongInputEndsAsSrcLenRange := by
  intro s w hlong
  have htest : s.inputTooLong = true := (State.inputTooLong_iff s).2 hlong
  exact ⟨if_pos htest, if_pos htest, if_pos htest, if_pos htest⟩

/-- Settles O25: INTACK clears DONE_IP alone, and every end of a command sets it. -/
theorem interruptAcknowledge : Obligations.InterruptAcknowledge := by
  refine fun s v => ⟨fun h0 => ⟨exec_intack s h0, rfl, fun i hi => ?_⟩, fun h0 hrst => ?_⟩
  · obtain ⟨t, ht, hend⟩ := exec_commandEnd hi { s with doneIp := false, resp := .ok }
    exact ⟨t, ht, doneIp_of_commandEnd hend⟩
  · exact hostTurn_of_reject hrst (decode_intStat_write_nothing s.params h0)

/-- Settles O26: the write stores bit 0 in DONE_IE, which irq reads. -/
theorem interruptEnableWrite : Obligations.InterruptEnableWrite :=
  fun _ _ => ⟨rfl, rfl⟩

/-- Settles O27: the register is stored as written, read back as stored and latched by START's acceptance. -/
theorem cmdAndSrcLenWrites : Obligations.CmdAndSrcLenWrites := by
  refine fun s v => ⟨⟨_, rfl, rfl, exec_rdReg _ (by decide) (by decide), fun hidle => ?_⟩,
    ⟨_, rfl, rfl, exec_rdReg _ (by decide) (by decide), fun hidle => ?_⟩⟩ <;>
    exact ⟨_, exec_start_idle (by decide) (by decide) hidle, rfl, rfl⟩

/-- Settles O28: every register reads as its line of the register page, and a reserved word is none of them. -/
theorem registerReads : Obligations.RegisterReads := by
  refine fun s => ⟨fun r hr => ?_, fun off hlow hhigh halign => ?_⟩
  · obtain ⟨hhigh, halign, hread⟩ := readRegister_of_mem_registerPage s r hr
    rw [exec_rdReg s hhigh halign, hread]
    rfl
  · rw [exec_rdReg s hhigh halign, readRegister_reserved s hlow]
    rfl

end Sys2Proof.Proofs
end

section
/-!
PROOFS. The family 70_reset_and_hazards: what a reset sets, what it keeps, and the state it leads to. The facts about the
operation both resets share come first, then the three statements.
-/

namespace Sys2Proof.Proofs

open Sys2Proof.Machine Sys2Proof.Claims

/-! ### The operation both resets share (70_reset_and_hazards.md R240, R241) -/

theorem resetBlock_not_busy (s : State) : s.resetBlock.busy = false := by
  rw [State.busy, State.resetBlock_status]
  rfl

/-- The register page does not show the level of rst, so what asserting it sets is what resetBlock sets. -/
theorem resetValues_resetBlock (s : State) : ResetValues s.params s.resetBlock := by
  obtain ⟨t, ht, -, hvalues⟩ := (assertedResetInputBlocksTheBlock s).2
  obtain rfl : s.driveRst true = t := Host.Outcome.next.inj ht
  exact hvalues

theorem dstKept_resetBlock {s : State} (hidle : s.busy = false) : DstKept s s.resetBlock := by
  rw [State.resetBlock_idle s hidle]
  exact fun _ => rfl

theorem driveRst_srcByte (s : State) (level : Bool) (a : Nat) : (s.driveRst level).srcByte a = s.srcByte a := by
  cases level with
  | false => rfl
  | true => exact State.resetBlock_srcByte s a

theorem dstKept_driveRst {s : State} {level : Bool} (h : s.busy = false ∨ level = false) :
    DstKept s (s.driveRst level) := by
  cases level with
  | false => exact fun _ => rfl
  | true => exact dstKept_resetBlock (h.resolve_right (by decide))

/-- The CTRL access resets or, where its bit 1 is clear, does nothing (42_control.md R190; log 15). -/
theorem exec_sreset_cases (v : Word) (s : State) :
    exec (.sreset v) s = .next (s.resetBlock.respond .ok) ∨ exec (.sreset v) s = .next (s.respond .ok) := by
  cases h1 : v.getLsbD 1 with
  | true => exact .inl (exec_sreset s h1)
  | false => exact .inr (if_neg (by rw [h1]; decide))

/-! ### The statements -/

/-- Settles O18: rst and a soft reset write memory by resetBlock alone, which draws DST anew only where a command ran. -/
theorem resetKeepsTheMemories : Obligations.ResetKeepsTheMemories := by
  refine ⟨fun s t b ht => ?_, fun s t v ht => ?_⟩
  · obtain rfl : s.driveRst b = t := Host.Outcome.next.inj ht
    exact ⟨driveRst_srcByte s b, dstKept_driveRst⟩
  · rcases exec_sreset_cases v s with he | he
    · obtain rfl : s.resetBlock.respond .ok = t := Host.Outcome.next.inj (he.symm.trans ht)
      exact ⟨State.resetBlock_srcByte s, dstKept_resetBlock⟩
    · obtain rfl : s.respond .ok = t := Host.Outcome.next.inj (he.symm.trans ht)
      exact ⟨fun _ => rfl, fun _ _ => rfl⟩

/-- Settles O12: the default capacities are powers of two, both buffers list nothing and the counters are 1 and 2. -/
theorem resetMeetsTheInvariant : Obligations.ResetMeetsTheInvariant where
  params_legal := by decide
  src_wf := State.reset_memories_wf.1
  src_bound := fun _ h => absurd h List.not_mem_nil
  dst_wf := State.reset_memories_wf.2
  dst_bound := fun _ h => absurd h List.not_mem_nil
  status_legal := .inl rfl
  dstLen_le := Nat.zero_le _
  dstLen_zero := fun _ => rfl
  errPos_zero := fun _ => rfl
  errPos_le := fun _ => Nat.zero_le _
  draws_fresh := by decide

/-- Settles O17: after rst the engine is blocked, after a soft reset it has no command to run. -/
theorem resetSetsTheRegisters : Obligations.ResetSetsTheRegisters := by
  refine ⟨fun s => ?_, fun s v h1 => ?_⟩
  · obtain ⟨t, ht, hrst, hvalues⟩ := (assertedResetInputBlocksTheBlock s).2
    exact ⟨t, ht, hvalues, engineTurn_of_idle (.inr hrst)⟩
  · exact ⟨_, exec_sreset s h1, resetValues_resetBlock s, engineTurn_of_idle (.inl (resetBlock_not_busy s))⟩

end Sys2Proof.Proofs
end

section
/-!
PROOFS. A bare word of the opcode table as the next instruction (log 12, 13), and the sample words of the encoding tables. The
word's encoding decodes alike under all parameters, and the step after an encoding is placed runs what it decodes to.
-/

namespace Sys2Proof.Proofs

open Sys2Proof.Machine

/-! ### What a table word decodes to -/

/-- The register that a table word is written to is CTRL or INT_EN, so its decoding asks for no parameter (10_state.md R22). -/
theorem decode_tableWordAccess (p : Params) (w : Word) :
    decode p (.access (tableWordAccess w)) = decodeRegWrite (tableWordOffset w) w := by
  have hoff : (tableWordOffset w).toNat ≤ 0xFFC ∧ (tableWordOffset w).toNat % 4 = 0 := by
    unfold tableWordOffset
    split
    · decide
    · decide
  exact decode_register_write p hoff.1 hoff.2 w

theorem decode_tableWordEncoding_congr (p q : Params) (w : Word) :
    decode p (tableWordEncoding w) = decode q (tableWordEncoding w) := by
  unfold tableWordEncoding
  split
  · rfl
  · rw [decode_tableWordAccess, decode_tableWordAccess]

/-- What the table word decodes to under the default parameters, its encoding decodes to under all of them. -/
theorem decode_of_decodeTableWord {w : Nat} {i : Instr} (h : decodeTableWord 32 w = some i) (p : Params) :
    decode p (tableWordEncoding (tableWordBits 32 w)) = .ok i := by
  rw [decode_tableWordEncoding_congr p Config.defaultParams]
  replace h : (decode Config.defaultParams (tableWordEncoding (tableWordBits 32 w))).toOption = some i := h
  cases hd : decode Config.defaultParams (tableWordEncoding (tableWordBits 32 w)) with
  | ok j =>
    rw [hd] at h
    exact congrArg _ (Option.some.inj h)
  | error r =>
    rw [hd] at h
    cases h

/-! ### The step after an encoding is placed -/

theorem placeCommand_busy (s : State) (c : Word) : (s.placeCommand c).busy = true := by
  show statusBusy.getLsbD 0 = true
  decide

/-- A placed command is latched under BUSY with an engine turn first, a placed access is the host's first. -/
theorem step_place {s : State} {e : Encoding} {i : Instr} (h : decode s.params e = .ok i) :
    step (s.place e) = exec i { s.place e with events := s.events } := by
  cases e with
  | command c => exact stepRunsTheLatchedCommand (s.placeCommand c) i (.inr rfl) (placeCommand_busy s c) rfl h
  | access a => exact stepRunsTheHostsInstruction (s.placeAccess a) a s.events i rfl rfl h

/-! ### The statements -/

/-- Settles O9: the placed encoding decodes to the table word's instruction under the state's own parameters. -/
theorem placedWordIsRunNext : Obligations.PlacedWordIsRunNext :=
  fun s _ _ h => step_place (decode_of_decodeTableWord h s.params)

/-- Settles O3: each word is compared with the rows of its table, each access with the map and the registers. -/
theorem sampleWordsDecode : Obligations.SampleWordsDecode := by
  unfold Obligations.SampleWordsDecode
  decide

end Sys2Proof.Proofs
end
